-- ==== Sys2Proof/Word.lean ====
section
/-! DEFINITION. The word types of DBK-CODEC: the byte every host access moves, the 17-bit host bus word, and the two
byte buffers of the block (spec/10_state.md R32, R50; spec/30_encoding.md R101). -/

namespace Sys2Proof

/-- An 8-bit unsigned value (R7): register bytes, frame bytes, register-space addresses. -/
abbrev Byte := BitVec 8

/-- The host bus word `WE`/`A`/`D`, 17 bits (R101). -/
abbrev BusWord := BitVec 17

/-- The frame buffer `FRAME[0..25]`: one byte per frame offset (R32). -/
abbrev Frame := Vector Byte 26

/-- The fixed-point byte register `FX_BYTES[0..3]`, byte 0 the least significant (R50). -/
abbrev FxBytes := Vector Byte 4

end Sys2Proof
end

