-- ==== Sys2Proof/Syntax.lean ====
section
/-! DEFINITION. The instructions of DBK-CODEC: one constructor per row of spec/opcode_table.json. The block fetches no
program (spec/10_state.md R31); an instruction is what one host bus word asks of it (spec/30_encoding.md R100, R136). -/

namespace Sys2Proof

/-- One constructor per row of the opcode table. Bits the spec ignores (the `D` field of RD, R102; `CTRL` bits 3 and 7,
and `FSEL` outside TFIELD, R113) are no operands. -/
inductive Instr
  /-- RD of register address `a` (R102, R260). -/
  | rd (a : Byte)
  /-- WR of byte `d` to register address `a` (R103, R262). -/
  | wr (a d : Byte)
  /-- `OP` 0: checksum of the frame buffer (R152). -/
  | csum
  /-- `OP` 1: build an outbound frame (R170). -/
  | fenc
  /-- `OP` 2: verify the inbound frame (R175). -/
  | fver
  /-- `OP` 3: decimal to fixed point (R220). -/
  | fxenc
  /-- `OP` 4: fixed point to decimal (R222). -/
  | fxdec
  /-- `OP` 5, `FSEL` 0 (R223). -/
  | tfieldCurrent
  /-- `OP` 5, `FSEL` 1 (R223). -/
  | tfieldVoltage
  /-- `OP` 5, `FSEL` 2 (R223). -/
  | tfieldMaxCurrent
  /-- `OP` 5, `FSEL` 3 (R223). -/
  | tfieldMaxVoltage
  /-- `OP` 5, `FSEL` 4 (R223). -/
  | tfieldVset
  /-- `OP` 5, reserved `FSEL` 5 (R113). -/
  | tfieldReserved5
  /-- `OP` 5, reserved `FSEL` 6 or 7 (R113). -/
  | tfieldReserved67
  /-- Reserved `OP` 6 (R113). -/
  | reservedOp6
  /-- Reserved `OP` 7 (R113). -/
  | reservedOp7
  /-- Frame byte 2 = 0x20, remote-control toggle, carried by FENC (R122). -/
  | wireRemote
  /-- Frame byte 2 = 0x21, output state, carried by FENC (R123). -/
  | wireOutput
  /-- Frame byte 2 = 0x22, set maximum voltage, carried by FENC (R124). -/
  | wireSetMaxV
  /-- Frame byte 2 = 0x23, set output voltage, carried by FENC (R125). -/
  | wireSetV
  /-- Frame byte 2 = 0x24, set maximum current, carried by FENC (R126). -/
  | wireSetMaxI
  /-- Frame byte 2 = 0x26, read telemetry, carried by FENC (R127). -/
  | wireRead
  deriving DecidableEq, Repr

end Sys2Proof
end

