-- ==== Sys2Proof/WellFormed.lean ====
section
/-! DEFINITION. Which instructions have an encoding of their own. The spec has no illegal bus word (spec/30_encoding.md
R104); the one check keeps the table's rows apart: a WR to `CTRL` is the operation its data byte selects (R110). -/

namespace Sys2Proof

/-- The address of `CTRL` (spec/20_memory.md R71). -/
def ctrlAddr : Byte := 0x20#8

/-- A plain WR does not address `CTRL`: that word is one of the operation rows (R110, R111). -/
def Instr.wellFormed : Instr → Bool
  | .wr a _ => a != ctrlAddr
  | .rd _ | .csum | .fenc | .fver | .fxenc | .fxdec
  | .tfieldCurrent | .tfieldVoltage | .tfieldMaxCurrent | .tfieldMaxVoltage | .tfieldVset
  | .tfieldReserved5 | .tfieldReserved67 | .reservedOp6 | .reservedOp7
  | .wireRemote | .wireOutput | .wireSetMaxV | .wireSetV | .wireSetMaxI | .wireRead => true

end Sys2Proof
end

