-- ==== Sys2Proof/Decode.lean ====
section
/-! DEFINITION. Decoder and encoder of the host bus word, the `CTRL` operation word and the wire command code
(spec/30_encoding.md R100-R113, R121). -/

namespace Sys2Proof

/-- `WE`, bit 16 (R101). -/
def wordWe (w : BusWord) : Bool := w.getLsbD 16

/-- `A`, bits 15:8 (R101). -/
def wordA (w : BusWord) : Byte := w.extractLsb' 8 8

/-- `D`, bits 7:0 (R101). -/
def wordD (w : BusWord) : Byte := w.extractLsb' 0 8

/-- `OP`, bits 2:0 of the `CTRL` byte (R110). -/
def ctrlOp (c : Byte) : BitVec 3 := c.extractLsb' 0 3

/-- `FSEL`, bits 6:4 of the `CTRL` byte (R110). -/
def ctrlFsel (c : Byte) : BitVec 3 := c.extractLsb' 4 3

/-- The TFIELD rows, by `FSEL` (R112, R113). -/
def decodeTfield (f : BitVec 3) : Instr :=
  match f.toNat with
  | 0 => .tfieldCurrent
  | 1 => .tfieldVoltage
  | 2 => .tfieldMaxCurrent
  | 3 => .tfieldMaxVoltage
  | 4 => .tfieldVset
  | 5 => .tfieldReserved5
  | _ => .tfieldReserved67

/-- The operation a `CTRL` byte selects (R110, R111, R113). -/
def decodeCtrl (c : Byte) : Instr :=
  match (ctrlOp c).toNat with
  | 0 => .csum
  | 1 => .fenc
  | 2 => .fver
  | 3 => .fxenc
  | 4 => .fxdec
  | 5 => decodeTfield (ctrlFsel c)
  | 6 => .reservedOp6
  | _ => .reservedOp7

/-- The instruction of a host bus word: total, no word is illegal (R102, R103, R104). -/
def decodeBus (w : BusWord) : Instr :=
  if wordWe w then
    if wordA w = ctrlAddr then decodeCtrl (wordD w) else .wr (wordA w) (wordD w)
  else .rd (wordA w)

/-- The wire row of a command code (R121); every other code is device-defined (R128). -/
def decodeCommand (c : Byte) : Option Instr :=
  match c.toNat with
  | 0x20 => some .wireRemote
  | 0x21 => some .wireOutput
  | 0x22 => some .wireSetMaxV
  | 0x23 => some .wireSetV
  | 0x24 => some .wireSetMaxI
  | 0x26 => some .wireRead
  | _ => none

/-- The instruction of a bus word presented while `CMD` holds `cmd`. A FENC whose command code has a wire row of the
table is that row (the row's encoding is frame byte 2, which FENC takes from `CMD`, R117, R121); its effect is FENC's
(log entry 3). -/
def decodeAt (cmd : Byte) (w : BusWord) : Instr :=
  match decodeBus w with
  | .fenc => (decodeCommand cmd).getD .fenc
  | i => i

/-- Why a byte sequence is no instruction of the table. -/
inductive Reject
  /-- Three bytes with a bit above bit 16 set: the bus word has 17 bits (R101). -/
  | notABusWord
  /-- Neither a bus word's three bytes nor the one byte of a `CTRL` or command-code row. -/
  | noSuchLength
  deriving DecidableEq, Repr

/-- The one-byte rows of the table: a command code of R121 (every bit fixed), else a `CTRL` byte (log entry 4). -/
def decodeTableByte (c : Byte) : Instr :=
  (decodeCommand c).getD (decodeCtrl c)

/-- The decoder on any bytes, first byte least significant: a bus word is three bytes (its 17 bits and seven zeros), a
`CTRL` or command-code row of the table one byte (log entry 4). -/
def decodeBytes : List Byte → Except Reject Instr
  | [c] => .ok (decodeTableByte c)
  | [d, a, we] =>
      if we.toNat < 2 then .ok (decodeBus (BitVec.ofNat 17 (we.toNat * 2 ^ 16 + a.toNat * 2 ^ 8 + d.toNat)))
      else .error .notABusWord
  | _ => .error .noSuchLength

/-- The host bus word with these fields (R101). -/
def mkWord (we : Bool) (a d : Byte) : BusWord :=
  (BitVec.ofBool we ++ (a ++ d)).setWidth 17

/-- The canonical `CTRL` byte of an operation and `FSEL` (R111, R112). -/
def mkCtrl (op fsel : BitVec 3) : Byte :=
  (0#1 ++ (fsel ++ (0#1 ++ op))).setWidth 8

/-- The canonical bus word of an instruction; a wire row is encoded by FENC's word and by `encodeCommand` (R111). -/
def encode : Instr → BusWord
  | .rd a => mkWord false a 0#8
  | .wr a d => mkWord true a d
  | .csum => mkWord true ctrlAddr (mkCtrl 0#3 0#3)
  | .fenc => mkWord true ctrlAddr (mkCtrl 1#3 0#3)
  | .fver => mkWord true ctrlAddr (mkCtrl 2#3 0#3)
  | .fxenc => mkWord true ctrlAddr (mkCtrl 3#3 0#3)
  | .fxdec => mkWord true ctrlAddr (mkCtrl 4#3 0#3)
  | .tfieldCurrent => mkWord true ctrlAddr (mkCtrl 5#3 0#3)
  | .tfieldVoltage => mkWord true ctrlAddr (mkCtrl 5#3 1#3)
  | .tfieldMaxCurrent => mkWord true ctrlAddr (mkCtrl 5#3 2#3)
  | .tfieldMaxVoltage => mkWord true ctrlAddr (mkCtrl 5#3 3#3)
  | .tfieldVset => mkWord true ctrlAddr (mkCtrl 5#3 4#3)
  | .tfieldReserved5 => mkWord true ctrlAddr (mkCtrl 5#3 5#3)
  | .tfieldReserved67 => mkWord true ctrlAddr (mkCtrl 5#3 6#3)
  | .reservedOp6 => mkWord true ctrlAddr (mkCtrl 6#3 0#3)
  | .reservedOp7 => mkWord true ctrlAddr (mkCtrl 7#3 0#3)
  | .wireRemote | .wireOutput | .wireSetMaxV | .wireSetV | .wireSetMaxI | .wireRead =>
      mkWord true ctrlAddr (mkCtrl 1#3 0#3)

/-- The command code of a wire row (R121). -/
def encodeCommand : Instr → Option Byte
  | .wireRemote => some 0x20#8
  | .wireOutput => some 0x21#8
  | .wireSetMaxV => some 0x22#8
  | .wireSetV => some 0x23#8
  | .wireSetMaxI => some 0x24#8
  | .wireRead => some 0x26#8
  | .rd _ | .wr _ _ | .csum | .fenc | .fver | .fxenc | .fxdec
  | .tfieldCurrent | .tfieldVoltage | .tfieldMaxCurrent | .tfieldMaxVoltage | .tfieldVset
  | .tfieldReserved5 | .tfieldReserved67 | .reservedOp6 | .reservedOp7 => none

/-- The values of `CMD` under which the word of `encode i` is `i`: a wire row needs its own code, and plain FENC a code
that has no row. -/
def Instr.presentedWith (i : Instr) (cmd : Byte) : Bool :=
  match encodeCommand i with
  | some c => cmd == c
  | none => i != .fenc || (decodeCommand cmd).isNone

/-- The bytes of a table word: one byte up to 8 bits, three bytes up to 24. -/
def tableBytes (nbits w : Nat) : List Byte :=
  if nbits ≤ 8 then
    if w < 2 ^ 8 then [BitVec.ofNat 8 w] else []
  else if nbits ≤ 24 then
    if w < 2 ^ 24 then [BitVec.ofNat 8 w, BitVec.ofNat 8 (w / 2 ^ 8), BitVec.ofNat 8 (w / 2 ^ 16)] else []
  else []

/-- The decoder on a word as spec/opcode_table.json numbers its bits: rows of at most 8 bits are the `CTRL` byte or the
command code, wider rows the 17-bit bus word (log entry 4). -/
def decodeTableWord (nbits w : Nat) : Option Instr :=
  match decodeBytes (tableBytes nbits w) with
  | .ok i => some i
  | .error _ => none

end Sys2Proof
end

