-- ==== Sys2Proof/Machine/Binary64.lean ====
section
/-! DEFINITION. The binary64 arithmetic of spec/00_scope.md R9: magnitudes as whole multiples of 2^-1074 (the smallest
subnormal), and rounding to nearest, ties to even, by exact integer arithmetic. -/

namespace Sys2Proof.Machine

/-- The sign bit of an encoding. -/
def f64Sign (b : BitVec 64) : Bool := b.getLsbD 63

/-- The 11-bit biased exponent of an encoding. -/
def f64Exp (b : BitVec 64) : Nat := (b.extractLsb' 52 11).toNat

/-- The 52-bit fraction of an encoding. -/
def f64Frac (b : BitVec 64) : Nat := (b.extractLsb' 0 52).toNat

/-- `isNaN(f64(b))` (R9). -/
def f64IsNaN (b : BitVec 64) : Bool := f64Exp b == 2047 && f64Frac b != 0

/-- `isInf(f64(b))` (R9). -/
def f64IsInf (b : BitVec 64) : Bool := f64Exp b == 2047 && f64Frac b == 0

/-- Units of 2^-1074 in 1.0. -/
def f64One : Nat := 2 ^ 1074

/-- `|real(f64(b))|` of a finite encoding, in units of 2^-1074 (R9): an integer for every finite binary64. -/
def f64Units (b : BitVec 64) : Nat :=
  if f64Exp b = 0 then f64Frac b else (2 ^ 52 + f64Frac b) * 2 ^ (f64Exp b - 1)

/-- The integer nearest `a / b`, ties to the even one. -/
def divNearestEven (a b : Nat) : Nat :=
  if 2 * (a % b) < b then a / b
  else if b < 2 * (a % b) then a / b + 1
  else a / b + (a / b) % 2

/-- The encoding of +infinity. -/
def f64Infinity : Nat := 0x7FF0000000000000

/-- The encoding, sign bit clear, of the binary64 nearest `num / den` units, ties to even; beyond the largest finite one
it is infinity (R9). With the leading bit of the quotient at `k`, the last place of the result is worth `2^(k - 52)`
units, and at least one unit (a subnormal). A carry out of the 53-bit significand moves into the exponent field. -/
def f64RoundUnits (num den : Nat) : Nat :=
  let t := Nat.log2 (num / den) - 52
  min (t * 2 ^ 52 + divNearestEven num (den * 2 ^ t)) f64Infinity

/-- The encoding with this sign and these low 63 bits. -/
def f64Pack (sign : Bool) (magnitude : Nat) : BitVec 64 :=
  (BitVec.ofBool sign ++ BitVec.ofNat 63 magnitude).setWidth 64

/-- `bits64(fl64(real(f64(b)) * k))` for a finite `b`: one binary64 multiply by an integer (R220). -/
def f64MulNat (b : BitVec 64) (k : Nat) : BitVec 64 :=
  f64Pack (f64Sign b) (f64RoundUnits (f64Units b * k) 1)

/-- `bits64(fl64(n / k))`: the exact quotient rounded once (R222). -/
def f64DivNat (n k : Nat) : BitVec 64 :=
  f64Pack false (f64RoundUnits (n * f64One) k)

/-- `trunc(real(f64(b)))` of a finite encoding, toward zero; `real(-0.0) = 0` (R9). -/
def f64Trunc (b : BitVec 64) : Int :=
  if f64Sign b then -((f64Units b / f64One : Nat) : Int) else ((f64Units b / f64One : Nat) : Int)

end Sys2Proof.Machine
end

