-- ==== Sys2Proof/Config.lean ====
section
/-! DEFINITION. The parameters of the block: the fixed values of spec/00_scope.md R5, the telemetry slices of
spec/30_encoding.md R131 (one configuration constant, spec/93_implementation_defined.md item 7), the wire command
table of R121, and the one open parameter `CODEC_BASE` (R6). -/

namespace Sys2Proof.Config

/-- `CSUM_SPAN`: the checksum covers offsets 0 to 24 (R5). -/
def csumSpan : Nat := 25

/-- `CSUM_OFS`: the checksum's own offset (R5, R119). -/
def csumOfs : Nat := 25

/-- `FRAME_LEN`: the length of every frame (R5, R120). -/
def frameLen : Nat := 26

/-- `HDR_LEN`: marker, address, command code (R5). -/
def hdrLen : Nat := 3

/-- `PAYLOAD_MAX`: the payload stands at offsets 3 to 24 (R5, R118). -/
def payloadMax : Nat := 22

/-- `START_MARKER` (R5, R115). -/
def startMarker : Byte := 0xAA#8

/-- `STATUS_MARKER_OFS`: a named constant because the source's literal is unaudited (R5, R129; 90_conflicts.md C2). -/
def statusMarkerOfs : Nat := 3

/-- `STATUS_MARKER` (R5, R129). -/
def statusMarker : Byte := 0x12#8

/-- `STATUS_CODE_OFS` (R5, R129). -/
def statusCodeOfs : Nat := 4

/-- The offset of the telemetry reply's on/off state byte (R131, R183). -/
def onOfs : Nat := 9

/-- `PRECISION`: decimal places of the fixed-point form (R5). -/
def precision : Nat := 3

/-- `SCALE` = 10^`PRECISION` = 1000 (R5). -/
def scale : Nat := 10 ^ precision

/-- The largest value of `FX_RANGE`, 2^32 - 1 (R5). -/
def fxMax : Nat := 2 ^ 32 - 1

/-- `FX_WIDTH`: bytes of an encoded value (R5). -/
def fxWidth : Nat := 4

/-- `FXDEC_MAX_LEN` (R5). -/
def fxdecMaxLen : Nat := 4

/-- The five fixed-point fields of a telemetry reply (R112, R131). -/
inductive TelemetryField
  | current | voltage | maxCurrent | maxVoltage | vset
  deriving DecidableEq, Repr

/-- First frame offset and length in bytes of each telemetry field (R131). -/
def telemetrySlice : TelemetryField → Nat × Nat
  | .current => (3, 2)
  | .voltage => (5, 4)
  | .maxCurrent => (10, 2)
  | .maxVoltage => (12, 4)
  | .vset => (16, 4)

/-- The payload shapes of the wire commands (R121). -/
inductive PayloadShape
  | flag          -- one byte, 1 or 0
  | fixedPoint    -- the 4-byte fixed-point form
  | empty
  deriving DecidableEq, Repr

/-- The `PLEN` of each payload shape (R121). -/
def PayloadShape.len : PayloadShape → Nat
  | .flag => 1
  | .fixedPoint => 4
  | .empty => 0

/-- The reply the host's success test reads (R121). -/
inductive ReplyKind
  | status | telemetry
  deriving DecidableEq, Repr

/-- A row of the wire command table (R121). -/
structure CommandRow where
  code    : Byte
  payload : PayloadShape
  reply   : ReplyKind
  deriving DecidableEq, Repr

/-- The command codes the source defines (R121); every other code is device-defined (R128). -/
def wireCommands : List CommandRow :=
  [ ⟨0x20#8, .flag, .status⟩,
    ⟨0x21#8, .flag, .status⟩,
    ⟨0x22#8, .fixedPoint, .status⟩,
    ⟨0x23#8, .fixedPoint, .status⟩,
    ⟨0x24#8, .fixedPoint, .status⟩,
    ⟨0x26#8, .empty, .telemetry⟩ ]

/-- `CODEC_BASE`, the one parameter the spec leaves open (R6, 92_eei_decisions.md D27): a free value, no rule reads it.
Log entry 5. -/
opaque codecBase : Nat

/-- The register address a host address names, for a window of 256 bytes at `base` (R6, R82). -/
def windowAddress (base h : Nat) : Option Byte :=
  if base ≤ h ∧ h < base + 256 then some (BitVec.ofNat 8 (h - base)) else none

/-- The host address of register address `a`, for a window at `base` (R6, R82). -/
def hostAddress (base : Nat) (a : Byte) : Nat := base + a.toNat

end Sys2Proof.Config
end

