-- ==== Sys2Proof/Machine/State.lean ====
section
/-! DEFINITION. The state of DBK-CODEC: exactly the tuple of spec/10_state.md R30, and the model's own host port (the
accesses the host has still to make, and the bytes its reads returned). -/

namespace Sys2Proof.Machine

/-- The error codes of `STATUS.ERR` (spec/60_exceptions.md R280). -/
inductive ErrCode
  /-- Written by every operation that succeeds. -/
  | noError
  /-- FENC with `PLEN > 22`. -/
  | encoding
  /-- FVER on a short frame or a wrong checksum byte. -/
  | checksumMismatch
  /-- FXENC on a value with no 32-bit encoding. -/
  | range
  /-- FVER with `RXLEN > 26`, FXDEC with `FX_LEN > 4`. -/
  | length
  /-- TFIELD while `VALID = 0`. -/
  | notValid
  /-- Reserved `OP`, reserved `FSEL`. -/
  | illegalOp
  deriving DecidableEq, Repr

/-- What the outside can do in one step (spec/00_scope.md R10, spec/70_reset_and_hazards.md R321). -/
inductive HostEvent
  /-- One host access: an RD or WR bus word (R100). -/
  | access (w : BusWord)
  /-- The reset input asserted for one step, with the host access made in that same step, if any (R321). -/
  | reset (w : Option BusWord)
  deriving DecidableEq, Repr

/-- The architectural state of R30, field by field, then the host port (log entry 1). -/
structure State where
  /-- `FRAME[0..25]` (R32). -/
  frame    : Frame
  /-- `RXLEN` (R33). -/
  rxlen    : Byte
  /-- `PLEN` (R34). -/
  plen     : Byte
  /-- `ADDR` (R35). -/
  addr     : Byte
  /-- `CMD` (R36). -/
  cmd      : Byte
  /-- `CSUM` (R37). -/
  csum     : Byte
  /-- `STATUS.ERR`, bits 2:0 (R39). -/
  err      : BitVec 3
  /-- `STATUS.VALID`, bit 4 (R40). -/
  valid    : Bool
  /-- `STATUS.ERRSEEN`, bit 7 (R41). -/
  errseen  : Bool
  /-- `FX_LEN` (R49). -/
  fxLen    : Byte
  /-- `FX_BYTES[0..3]` (R50). -/
  fxBytes  : FxBytes
  /-- `FX_INT` (R51). -/
  fxInt    : BitVec 32
  /-- `FX_IN`, a binary64 encoding (R52). -/
  fxIn     : BitVec 64
  /-- `FX_OUT`, a binary64 encoding (R53). -/
  fxOut    : BitVec 64
  /-- The model's own: the host's accesses and resets still to come, next first. -/
  pending  : List HostEvent
  /-- The model's own: the byte returned by each RD so far, oldest first (R341). -/
  returned : List Byte
  deriving DecidableEq, Repr

/-- The machine raises no fault: an error is an outcome recorded in `STATUS`, never a stop (R287, R297). Nobody raises
one. -/
inductive Fault
  deriving DecidableEq, Repr

/-- Why a step has no meaning. -/
inductive Refusal
  /-- Raised by `exec` for an instruction the model gives no meaning: safe. No arm of this model raises it. -/
  | notModelled (mnemonic : String)
  deriving DecidableEq, Repr

/-- What a meaning answers. -/
abbrev Result := Host.Outcome State Fault Refusal

/-- Reset: every piece of state at the value of R55, all zero; no access pending, none answered. -/
def State.reset : State where
  frame    := Vector.replicate 26 0#8
  rxlen    := 0#8
  plen     := 0#8
  addr     := 0#8
  cmd      := 0#8
  csum     := 0#8
  err      := 0#3
  valid    := false
  errseen  := false
  fxLen    := 0#8
  fxBytes  := Vector.replicate 4 0#8
  fxInt    := 0#32
  fxIn     := 0#64
  fxOut    := 0#64
  pending  := []
  returned := []

end Sys2Proof.Machine
end

