-- ==== Sys2Proof/Machine/Flags.lean ====
section
/-! DEFINITION. The frame checksum, the `STATUS` byte and its updates, and the `REPLY` view (spec/40_checksum.md R150,
spec/10_state.md R38-R48, spec/41_frame_codec.md R180-R184, spec/60_exceptions.md R280-R283). -/

namespace Sys2Proof.Machine

/-- The byte at frame offset `i`; offsets beyond 25 do not exist and no rule reads one. -/
def frameByte (f : Frame) (i : Nat) : Byte := if h : i < 26 then f[i] else 0#8

/-- `csum(FRAME)`: the modulo-256 sum of the bytes at offsets 0 to 24 (R150). -/
def checksum (f : Frame) : Byte :=
  BitVec.ofNat 8 (((List.range Config.csumSpan).map fun i => (frameByte f i).toNat).sum % 256)

/-- The buffer is checksum-valid (R153). -/
def checksumValid (f : Frame) : Bool := frameByte f Config.csumOfs == checksum f

/-- The number of an error code in `STATUS.ERR` (R280). -/
def ErrCode.code : ErrCode → BitVec 3
  | .noError => 0#3
  | .encoding => 1#3
  | .checksumMismatch => 2#3
  | .range => 3#3
  | .length => 4#3
  | .notValid => 5#3
  | .illegalOp => 6#3

/-- `raise Error(code)`: the one way an operation reports an error (R283). -/
def State.raise (s : State) (e : ErrCode) : State := { s with err := e.code, errseen := true }

/-- The end of an operation that succeeds: `ERR` becomes `NONE`, `ERRSEEN` stays (R281, R282). -/
def State.succeed (s : State) : State := { s with err := ErrCode.noError.code }

/-- `STATUS.VALID <- v` (R40). -/
def State.setValid (s : State) (v : Bool) : State := { s with valid := v }

/-- The `STATUS` byte: `ERR | VALID << 4 | ERRSEEN << 7`, bits 3, 5 and 6 zero (R38, R261). -/
def statusByte (s : State) : Byte :=
  (BitVec.ofBool s.errseen ++ (0#2 ++ (BitVec.ofBool s.valid ++ (0#1 ++ s.err)))).setWidth 8

/-- The status codes the source names (R130). -/
inductive StatusCode
  | success | checksumIncorrect | paramIncorrect | unrecognized | invalidCmd
  deriving DecidableEq, Repr

/-- The code byte of each status (R130). -/
def StatusCode.byte : StatusCode → Byte
  | .success => 0x80#8
  | .checksumIncorrect => 0x90#8
  | .paramIncorrect => 0xA0#8
  | .unrecognized => 0xB0#8
  | .invalidCmd => 0xC0#8

/-- `REPLY.SCLASS` of a status code byte (R47, R182). -/
def sclass (b : Byte) : BitVec 3 :=
  if b = StatusCode.success.byte then 1#3
  else if b = StatusCode.checksumIncorrect.byte then 2#3
  else if b = StatusCode.paramIncorrect.byte then 3#3
  else if b = StatusCode.unrecognized.byte then 4#3
  else if b = StatusCode.invalidCmd.byte then 5#3
  else 0#3

/-- `IS_STATUS`: the status marker stands at its offset (R181). -/
def isStatus (f : Frame) : Bool := frameByte f Config.statusMarkerOfs == Config.statusMarker

/-- `ON`: the on/off state byte is nonzero (R183). -/
def isOn (f : Frame) : Bool := frameByte f Config.onOfs != 0#8

/-- The `REPLY` view: 0x00 while `VALID = 0`, else `RVALID`, `SCLASS`, `ON`, `IS_STATUS` (R44, R180). -/
def replyByte (s : State) : Byte :=
  if s.valid then
    (1#1 ++ (0#2 ++ (sclass (frameByte s.frame Config.statusCodeOfs) ++
      (BitVec.ofBool (isOn s.frame) ++ BitVec.ofBool (isStatus s.frame))))).setWidth 8
  else 0#8

/-- The host's success test: a verified frame whose status byte is SUCCESS (R184). DESIGN CHOICE: `IS_STATUS = 1` is not
required; R184 leaves open whether the host must require it too (log entry 15). -/
def successTest (s : State) : Bool :=
  s.valid && frameByte s.frame Config.statusCodeOfs == StatusCode.success.byte

end Sys2Proof.Machine
end

