-- ==== Sys2Proof/Machine/Operands.lean ====
section
/-! DEFINITION. The operand forms: the absolute 8-bit register address of RD and WR (spec/43_host_access.md R260, R262;
the map of spec/20_memory.md R71), and the little-endian byte forms of the fixed-point registers (R75, R76). -/

namespace Sys2Proof.Machine

/-- `FX_BYTES[i]`; bytes beyond 3 do not exist and no rule reads one. -/
def fxByte (bs : FxBytes) (i : Nat) : Byte := if h : i < 4 then bs[i] else 0#8

/-- Little-endian accumulation of the first `len` bytes (R75, R132, R222). -/
def littleEndianSum (bs : FxBytes) (len : Nat) : Nat :=
  ((List.range len).map fun i => (fxByte bs i).toNat * 2 ^ (8 * i)).sum

/-- The four bytes of a 32-bit integer, least significant first (R75, R220). -/
def littleEndianBytes (n : BitVec 32) : FxBytes :=
  Vector.ofFn fun k => n.extractLsb' (8 * k.val) 8

/-- `x` with bits `8k+7:8k` replaced by `d` (R76, R262). -/
def setByte (x : BitVec 64) (k : Nat) (d : Byte) : BitVec 64 :=
  (x &&& ~~~(0xFF#64 <<< (8 * k))) ||| (d.setWidth 64 <<< (8 * k))

/-- The byte an RD of register address `a` returns (R260). -/
def busRead (s : State) (a : Byte) : Byte :=
  let n := a.toNat
  if n ≤ 0x19 then frameByte s.frame n
  else if n = 0x1A then s.rxlen
  else if n = 0x1B then s.plen
  else if n = 0x1C then s.addr
  else if n = 0x1D then s.cmd
  else if n = 0x1E then s.csum
  else if n = 0x1F then statusByte s
  else if n = 0x20 then 0#8
  else if n = 0x21 then replyByte s
  else if n = 0x22 then s.fxLen
  else if 0x24 ≤ n ∧ n ≤ 0x27 then fxByte s.fxBytes (n - 0x24)
  else if 0x28 ≤ n ∧ n ≤ 0x2B then s.fxInt.extractLsb' (8 * (n - 0x28)) 8
  else if 0x30 ≤ n ∧ n ≤ 0x37 then s.fxIn.extractLsb' (8 * (n - 0x30)) 8
  else if 0x38 ≤ n ∧ n ≤ 0x3F then s.fxOut.extractLsb' (8 * (n - 0x38)) 8
  else 0#8

/-- What a WR of `d` stores at a register address other than `CTRL`; read-only and reserved addresses ignore it (R262,
R263, R72, R73). -/
def busStore (s : State) (a d : Byte) : State :=
  let n := a.toNat
  if n ≤ 0x19 then { s with frame := s.frame.setIfInBounds n d, valid := false }
  else if n = 0x1A then { s with rxlen := d, valid := false }
  else if n = 0x1B then { s with plen := d }
  else if n = 0x1C then { s with addr := d }
  else if n = 0x1D then { s with cmd := d }
  else if n = 0x22 then { s with fxLen := d }
  else if 0x24 ≤ n ∧ n ≤ 0x27 then { s with fxBytes := s.fxBytes.setIfInBounds (n - 0x24) d }
  else if 0x30 ≤ n ∧ n ≤ 0x37 then { s with fxIn := setByte s.fxIn (n - 0x30) d }
  else s

end Sys2Proof.Machine
end

