-- ==== Sys2Proof/Machine/Ops.lean ====
section
/-! DEFINITION. The operations the meanings share. Reporting an error (`raise`, spec/60_exceptions.md R283) stands in
Machine/Flags.lean: it is all the block has in place of an exception (R287, R288). -/

namespace Sys2Proof.Machine

/-- The frame FENC leaves: marker, address, command code, the `plen` staged payload bytes, zero fill to offset 24, and
the checksum of the bytes before it (R170, R114-R119). -/
def buildFrame (f : Frame) (addr cmd : Byte) (plen : Nat) : Frame :=
  let body : Frame := Vector.ofFn fun k =>
    if k.val = 0 then Config.startMarker
    else if k.val = 1 then addr
    else if k.val = 2 then cmd
    else if k.val < Config.hdrLen + plen then frameByte f k.val
    else 0#8
  body.setIfInBounds Config.csumOfs (checksum body)

/-- FENC with command code `cmd` at offset 2 (R170). -/
def fencWith (cmd : Byte) (s : State) : State :=
  if Config.payloadMax < s.plen.toNat then s.raise .encoding
  else
    let f := buildFrame s.frame s.addr cmd s.plen.toNat
    State.succeed { s with frame := f, csum := frameByte f Config.csumOfs, valid := false }

/-- FVER (R175): `CSUM` first, then the length checks, then the checksum check (R285). -/
def verifyFrame (s : State) : State :=
  let t : State := { s with csum := checksum s.frame }
  if Config.frameLen < s.rxlen.toNat then (t.setValid false).raise .length
  else if s.rxlen.toNat < Config.frameLen then (t.setValid false).raise .checksumMismatch
  else if frameByte s.frame Config.csumOfs = checksum s.frame then (t.setValid true).succeed
  else (t.setValid false).raise .checksumMismatch

/-- The result of a fixed-point decode: the integer, and its decimal at three places (R222, R223). -/
def setDecoded (s : State) (n : Nat) : State :=
  State.succeed { s with fxInt := BitVec.ofNat 32 n, fxOut := f64DivNat n Config.scale }

/-- FXDEC (R222). -/
def decodeFixed (s : State) : State :=
  if Config.fxdecMaxLen < s.fxLen.toNat then s.raise .length
  else setDecoded s (littleEndianSum s.fxBytes s.fxLen.toNat)

/-- FXENC (R220). -/
def encodeFixed (s : State) : State :=
  if f64IsNaN s.fxIn || f64IsInf s.fxIn then s.raise .range
  else
    let p := f64MulNat s.fxIn Config.scale
    if f64IsInf p then s.raise .range
    else
      let n := f64Trunc p
      if n < 0 ∨ (Config.fxMax : Int) < n then s.raise .range
      else
        let v := BitVec.ofNat 32 n.toNat
        State.succeed
          { s with fxInt := v, fxBytes := littleEndianBytes v, fxLen := BitVec.ofNat 8 Config.fxWidth }

/-- TFIELD on a legal field: the guard, the copy with zero fill, the decode (R223). -/
def extractField (field : Config.TelemetryField) (s : State) : State :=
  if s.valid then
    let o := (Config.telemetrySlice field).1
    let len := (Config.telemetrySlice field).2
    let bs : FxBytes := Vector.ofFn fun i => if i.val < len then frameByte s.frame (o + i.val) else 0#8
    setDecoded { s with fxBytes := bs, fxLen := BitVec.ofNat 8 len } (littleEndianSum bs len)
  else s.raise .notValid

/-- The host takes the next event off its list of accesses still to make (R10). -/
def State.setPending (s : State) (es : List HostEvent) : State := { s with pending := es }

/-- An RD hands byte `b` to the host (R260, R341). -/
def State.giveByte (s : State) (b : Byte) : State := { s with returned := s.returned ++ [b] }

end Sys2Proof.Machine
end

