-- ==== Sys2Proof/Machine/Checksum.lean ====
section
/-! DEFINITION. The checksum generator (spec/40_checksum.md). -/

namespace Sys2Proof.Machine

/-- CSUM (R152): `CSUM` gets the checksum of the buffer; it always succeeds. -/
def execCsum (s : State) : Result := .next (State.succeed { s with csum := checksum s.frame })

end Sys2Proof.Machine
end

