-- ==== Sys2Proof/Machine/FixedPoint.lean ====
section
/-! DEFINITION. The fixed-point encoder and decoder (spec/42_fixed_point.md R220-R222). -/

namespace Sys2Proof.Machine

/-- FXENC (R220, R221). -/
def execFxenc (s : State) : Result := .next (encodeFixed s)

/-- FXDEC (R222). -/
def execFxdec (s : State) : Result := .next (decodeFixed s)

end Sys2Proof.Machine
end

