-- ==== Sys2Proof/Machine/FrameCodec.lean ====
section
/-! DEFINITION. The frame encoder and validator (spec/41_frame_codec.md). -/

namespace Sys2Proof.Machine

/-- FENC (R170): the command code at offset 2 is `CMD`. -/
def execFenc (s : State) : Result := .next (fencWith s.cmd s)

/-- FVER (R175, R176). -/
def execFver (s : State) : Result := .next (verifyFrame s)

end Sys2Proof.Machine
end

