-- ==== Sys2Proof/Machine/Reserved.lean ====
section
/-! DEFINITION. The reserved operation encodings (spec/30_encoding.md R113). -/

namespace Sys2Proof.Machine

/-- `OP` 6: reports `ILLEGAL_OP`, writes nothing else (R113, R280). -/
def execReservedOp6 (s : State) : Result := .next (s.raise .illegalOp)

/-- `OP` 7: reports `ILLEGAL_OP`, writes nothing else (R113, R280). -/
def execReservedOp7 (s : State) : Result := .next (s.raise .illegalOp)

end Sys2Proof.Machine
end

