-- ==== Sys2Proof/Machine/Telemetry.lean ====
section
/-! DEFINITION. Telemetry field extraction, one meaning per `FSEL` (spec/42_fixed_point.md R223, spec/30_encoding.md
R112, R113). -/

namespace Sys2Proof.Machine

/-- TFIELD, `FSEL` 0: output current, @3:5 (R223). -/
def execTfieldCurrent (s : State) : Result := .next (extractField .current s)

/-- TFIELD, `FSEL` 1: output voltage, @5:9 (R223). -/
def execTfieldVoltage (s : State) : Result := .next (extractField .voltage s)

/-- TFIELD, `FSEL` 2: maximum current setting, @10:12 (R223). -/
def execTfieldMaxCurrent (s : State) : Result := .next (extractField .maxCurrent s)

/-- TFIELD, `FSEL` 3: maximum voltage setting, @12:16 (R223). -/
def execTfieldMaxVoltage (s : State) : Result := .next (extractField .maxVoltage s)

/-- TFIELD, `FSEL` 4: voltage setpoint, @16:20 (R223). -/
def execTfieldVset (s : State) : Result := .next (extractField .vset s)

/-- TFIELD, `FSEL` 5: the encoding check comes before the `VALID` check (R113, R223, R285). -/
def execTfieldReserved5 (s : State) : Result := .next (s.raise .illegalOp)

/-- TFIELD, `FSEL` 6 and 7 (R113, R223, R285). -/
def execTfieldReserved67 (s : State) : Result := .next (s.raise .illegalOp)

end Sys2Proof.Machine
end

