-- ==== Sys2Proof/Machine/HostAccess.lean ====
section
/-! DEFINITION. The host register accesses RD and WR (spec/43_host_access.md). -/

namespace Sys2Proof.Machine

/-- TFIELD with the `FSEL` of the written byte (R223). -/
def performTfield (fsel : BitVec 3) (s : State) : Result :=
  match fsel.toNat with
  | 0 => execTfieldCurrent s
  | 1 => execTfieldVoltage s
  | 2 => execTfieldMaxCurrent s
  | 3 => execTfieldMaxVoltage s
  | 4 => execTfieldVset s
  | 5 => execTfieldReserved5 s
  | _ => execTfieldReserved67 s

/-- The operation that a byte written to `CTRL` selects (R110, R111, R113). -/
def performCtrl (c : Byte) (s : State) : Result :=
  match (ctrlOp c).toNat with
  | 0 => execCsum s
  | 1 => execFenc s
  | 2 => execFver s
  | 3 => execFxenc s
  | 4 => execFxdec s
  | 5 => performTfield (ctrlFsel c) s
  | 6 => execReservedOp6 s
  | _ => execReservedOp7 s

/-- RD (R260): returns the addressed byte and changes no register. -/
def execRd (a : Byte) (s : State) : Result := .next (s.giveByte (busRead s a))

/-- WR (R262): a write to `CTRL` performs the operation its byte selects and stores nothing (R43). -/
def execWr (a d : Byte) (s : State) : Result :=
  if a = ctrlAddr then performCtrl d s else .next (busStore s a d)

end Sys2Proof.Machine
end

