-- ==== Sys2Proof/Machine/Wire.lean ====
section
/-! DEFINITION. The wire command rows (spec/30_encoding.md R121-R127). The block gives a command code no meaning of its
own (R128): a row is FENC carrying its code at frame offset 2, whatever payload is staged (log entry 3). -/

namespace Sys2Proof.Machine

/-- FENC carrying 0x20, remote-control toggle (R122, R170). -/
def execWireRemote (s : State) : Result := .next (fencWith 0x20#8 s)

/-- FENC carrying 0x21, output state (R123, R170). -/
def execWireOutput (s : State) : Result := .next (fencWith 0x21#8 s)

/-- FENC carrying 0x22, set maximum voltage (R124, R170). -/
def execWireSetMaxV (s : State) : Result := .next (fencWith 0x22#8 s)

/-- FENC carrying 0x23, set output voltage (R125, R170). -/
def execWireSetV (s : State) : Result := .next (fencWith 0x23#8 s)

/-- FENC carrying 0x24, set maximum current (R126, R170). -/
def execWireSetMaxI (s : State) : Result := .next (fencWith 0x24#8 s)

/-- FENC carrying 0x26, read telemetry (R127, R170). -/
def execWireRead (s : State) : Result := .next (fencWith 0x26#8 s)

end Sys2Proof.Machine
end

