-- ==== Sys2Proof/Machine/Dispatch.lean ====
section
/-! DEFINITION. The one match from an instruction to its meaning. -/

namespace Sys2Proof.Machine

/-- The meaning of an instruction. -/
def exec (i : Instr) (s : State) : Host.Outcome State Fault Refusal :=
  match i with
  | .rd a => Sys2Proof.Machine.execRd a s
  | .wr a d => Sys2Proof.Machine.execWr a d s
  | .csum => Sys2Proof.Machine.execCsum s
  | .fenc => Sys2Proof.Machine.execFenc s
  | .fver => Sys2Proof.Machine.execFver s
  | .fxenc => Sys2Proof.Machine.execFxenc s
  | .fxdec => Sys2Proof.Machine.execFxdec s
  | .tfieldCurrent => Sys2Proof.Machine.execTfieldCurrent s
  | .tfieldVoltage => Sys2Proof.Machine.execTfieldVoltage s
  | .tfieldMaxCurrent => Sys2Proof.Machine.execTfieldMaxCurrent s
  | .tfieldMaxVoltage => Sys2Proof.Machine.execTfieldMaxVoltage s
  | .tfieldVset => Sys2Proof.Machine.execTfieldVset s
  | .tfieldReserved5 => Sys2Proof.Machine.execTfieldReserved5 s
  | .tfieldReserved67 => Sys2Proof.Machine.execTfieldReserved67 s
  | .reservedOp6 => Sys2Proof.Machine.execReservedOp6 s
  | .reservedOp7 => Sys2Proof.Machine.execReservedOp7 s
  | .wireRemote => Sys2Proof.Machine.execWireRemote s
  | .wireOutput => Sys2Proof.Machine.execWireOutput s
  | .wireSetMaxV => Sys2Proof.Machine.execWireSetMaxV s
  | .wireSetV => Sys2Proof.Machine.execWireSetV s
  | .wireSetMaxI => Sys2Proof.Machine.execWireSetMaxI s
  | .wireRead => Sys2Proof.Machine.execWireRead s

end Sys2Proof.Machine
end

