-- ==== Sys2Proof/Machine/Port.lean ====
section
/-! DEFINITION. What a step does around an instruction: reading the host port's next access, the reset input, and the
wait for a host that makes no access (spec/00_scope.md R10, spec/70_reset_and_hazards.md R320-R322). -/

namespace Sys2Proof.Machine

/-- The instruction of the bus word the host presents; `CMD` tells which command a FENC carries (log entry 3). -/
def fetch (w : BusWord) (s : State) : Instr := decodeAt s.cmd w

/-- Every register at its reset value (R55, R320); the host's own accesses are no state of the block. -/
def resetRegisters (s : State) : State :=
  { State.reset with pending := s.pending, returned := s.returned }

/-- A step with the reset input asserted: reset wins, a write in the same step is ignored, a read returns 0x00 (R321). -/
def resetStep (w : Option BusWord) (s : State) : State :=
  match w with
  | none => resetRegisters s
  | some x => if wordWe x then resetRegisters s else (resetRegisters s).giveByte 0#8

/-- No access and no reset: the block waits and all state holds its value (R322, R296; log entry 2). -/
def idle (s : State) : State := s

end Sys2Proof.Machine
end

