-- ==== Sys2Proof/Machine/Step.lean ====
section
/-! DEFINITION. One step: one host access, performed whole, or one step of reset (spec/00_scope.md R10,
spec/70_reset_and_hazards.md R321). -/

namespace Sys2Proof.Machine

/-- One step of the block (R10): the host's next event, or a wait if there is none. -/
def step (s : State) : Host.Outcome State Fault Refusal :=
  match s.pending with
  | [] => .next (idle s)
  | .access w :: rest => exec (fetch w s) (s.setPending rest)
  | .reset w :: rest => .next (resetStep w (s.setPending rest))

/-- `s` with the instruction of a table word as the host's next access: a `CTRL` byte as the WR of it to `CTRL`, a
command code as FENC with the code in `CMD`, a wider word as the bus word itself (log entry 4). A word the decoder
refuses is no access and leaves `s` alone. -/
def State.withFetchWord (s : State) (nbits w : Nat) : State :=
  match decodeTableWord nbits w with
  | none => s
  | some i =>
    match encodeCommand i with
    | some c => { s with cmd := c, pending := .access (encode i) :: s.pending }
    | none =>
      let word := if nbits ≤ 8 then mkWord true ctrlAddr (BitVec.ofNat 8 w) else BitVec.ofNat 17 w
      { s with pending := .access word :: s.pending }

end Sys2Proof.Machine
end

