-- ==== Sys2Proof/Machine/HostProgram.lean ====
section
/-! DEFINITION. Host programs (spec/30_encoding.md R100, R134, R135): register names, lines and their expansion into bus
words, and how a program is given to the machine. Their text is read in Machine/Assembler.lean. -/

namespace Sys2Proof.Machine

/-- The `<addr>` of a line: a register of R71, by name and byte, or a number (R134). -/
inductive RegRef
  | number (a : Byte)
  | frame (i : Fin 26)
  | rxlen | plen | addr | cmd | csum | status | ctrl | reply | fxLen
  | fxBytes (i : Fin 4)
  | fxInt (k : Fin 4)
  | fxIn (k : Fin 8)
  | fxOut (k : Fin 8)
  deriving DecidableEq, Repr

/-- The address a name stands for (R71, R134). -/
def RegRef.address : RegRef → Byte
  | .number a => a
  | .frame i => BitVec.ofNat 8 i.val
  | .rxlen => 0x1A#8
  | .plen => 0x1B#8
  | .addr => 0x1C#8
  | .cmd => 0x1D#8
  | .csum => 0x1E#8
  | .status => 0x1F#8
  | .ctrl => 0x20#8
  | .reply => 0x21#8
  | .fxLen => 0x22#8
  | .fxBytes i => BitVec.ofNat 8 (0x24 + i.val)
  | .fxInt k => BitVec.ofNat 8 (0x28 + k.val)
  | .fxIn k => BitVec.ofNat 8 (0x30 + k.val)
  | .fxOut k => BitVec.ofNat 8 (0x38 + k.val)

/-- The operation of an `OP` line (R135). -/
inductive OpName
  | csum | fenc | fver | fxenc | fxdec
  | tfield (f : BitVec 3)
  deriving DecidableEq, Repr

/-- The `CTRL` byte an `OP` line writes (R135). -/
def OpName.ctrlByte : OpName → Byte
  | .csum => 0x00#8
  | .fenc => 0x01#8
  | .fver => 0x02#8
  | .fxenc => 0x03#8
  | .fxdec => 0x04#8
  | .tfield f => BitVec.ofNat 8 (0x05 + 16 * f.toNat)

/-- A line of a host program: a bus word or a pseudo-instruction (R134, R135). -/
inductive HostLine
  | rd (r : RegRef)
  | wr (r : RegRef) (b : Byte)
  | op (o : OpName)
  | wrn (r : RegRef) (n value : Nat)
  | rdn (r : RegRef) (n : Nat)
  | wrb (r : RegRef) (bs : List Byte)
  deriving DecidableEq, Repr

/-- The bus word of an RD, canonical with `D` = 0 (R102). -/
def rdWord (a : Byte) : BusWord := mkWord false a 0#8

/-- The bus word of a WR (R103). -/
def wrWord (a d : Byte) : BusWord := mkWord true a d

/-- One WR per byte at ascending addresses (R135). -/
def wrBytes (a : Byte) : List Byte → List BusWord
  | [] => []
  | b :: bs => wrWord a b :: wrBytes (a + 1#8) bs

/-- The bus words of a line, in the order they are performed (R135). -/
def HostLine.expand : HostLine → List BusWord
  | .rd r => [rdWord r.address]
  | .wr r b => [wrWord r.address b]
  | .op o => [wrWord ctrlAddr o.ctrlByte]
  | .wrn r n value => wrBytes r.address ((List.range n).map fun k => BitVec.ofNat 8 (value / 2 ^ (8 * k)))
  | .rdn r n => (List.range n).map fun k => rdWord (r.address + BitVec.ofNat 8 k)
  | .wrb r bs => wrBytes r.address bs

/-- A host program given to the machine: its bus words follow the accesses already pending (R100, R341). -/
def State.load (s : State) (p : List HostLine) : State :=
  s.setPending (s.pending ++ (p.flatMap HostLine.expand).map HostEvent.access)

end Sys2Proof.Machine
end

