-- ==== Sys2Proof/Machine/Table.lean ====
section
/-! DEFINITION. The opcode table's fixed bits (spec/opcode_table.json, the "encoding" patterns; spec/30_encoding.md
R101, R111-R113), written out apart from the decoder and the encoder, for the statements that compare them. -/

namespace Sys2Proof.Machine

/-- The bits of a bus word that the row and operands of `i` fix. RD ignores bits 7:0 (R102); an operation ignores `CTRL`
bits 3 and 7, and `FSEL` unless it is TFIELD (R113). -/
def rowMask : Instr → BusWord
  | .rd _ => 0x1FF00#17
  | .wr _ _ => 0x1FFFF#17
  | .csum | .fenc | .fver | .fxenc | .fxdec | .reservedOp6 | .reservedOp7 => 0x1FF07#17
  | .tfieldCurrent | .tfieldVoltage | .tfieldMaxCurrent | .tfieldMaxVoltage | .tfieldVset
  | .tfieldReserved5 => 0x1FF77#17
  | .tfieldReserved67 => 0x1FF67#17
  | .wireRemote | .wireOutput | .wireSetMaxV | .wireSetV | .wireSetMaxI | .wireRead => 0x1FF07#17

/-- The values of those bits. -/
def rowMatch : Instr → BusWord
  | .rd a => BitVec.ofNat 17 (a.toNat * 0x100)
  | .wr a d => BitVec.ofNat 17 (0x10000 + a.toNat * 0x100 + d.toNat)
  | .csum => 0x12000#17
  | .fenc => 0x12001#17
  | .fver => 0x12002#17
  | .fxenc => 0x12003#17
  | .fxdec => 0x12004#17
  | .tfieldCurrent => 0x12005#17
  | .tfieldVoltage => 0x12015#17
  | .tfieldMaxCurrent => 0x12025#17
  | .tfieldMaxVoltage => 0x12035#17
  | .tfieldVset => 0x12045#17
  | .tfieldReserved5 => 0x12055#17
  | .tfieldReserved67 => 0x12065#17
  | .reservedOp6 => 0x12006#17
  | .reservedOp7 => 0x12007#17
  | .wireRemote | .wireOutput | .wireSetMaxV | .wireSetV | .wireSetMaxI | .wireRead => 0x12001#17

/-- The word `w` has the fixed bits of the row of `i`. -/
abbrev rowFits (i : Instr) (w : BusWord) : Prop := w &&& rowMask i = rowMatch i

/-- The rows whose encoding is frame byte 2 (R121), not a bus word. -/
def isWireRow (i : Instr) : Bool := (encodeCommand i).isSome

end Sys2Proof.Machine
end

