-- ==== Sys2Proof/Safety.lean ====
section
/-! DEFINITION. The terms claims about a run use: the block's invariant, the fault record of spec/60_exceptions.md R297,
the classes of events and instructions, and what `fl64` means as a rational (spec/00_scope.md R9). -/

namespace Sys2Proof.Machine

/-- What every reachable state satisfies: `ERR` is never 7 (R39), an error code implies `ERRSEEN` (R282), and a `VALID`
buffer is 26 bytes long and checksum-valid (R40, R153, R175). -/
structure State.Inv (s : State) : Prop where
  err_legal : s.err ≠ 7#3
  err_seen : s.err ≠ 0#3 → s.errseen = true
  valid_len : s.valid = true → s.rxlen = 26#8
  valid_sum : s.valid = true → checksumValid s.frame = true

/-- "No operation failed": the premise a claim about a run takes (R297). -/
abbrev State.noErrorSeen (s : State) : Prop := s.errseen = false

/-- The operations: what a WR to `CTRL` issues, the wire rows included (R111, R121). -/
def isOperation : Instr → Bool
  | .rd _ | .wr _ _ => false
  | .csum | .fenc | .fver | .fxenc | .fxdec
  | .tfieldCurrent | .tfieldVoltage | .tfieldMaxCurrent | .tfieldMaxVoltage | .tfieldVset
  | .tfieldReserved5 | .tfieldReserved67 | .reservedOp6 | .reservedOp7
  | .wireRemote | .wireOutput | .wireSetMaxV | .wireSetV | .wireSetMaxI | .wireRead => true

/-- An RD among the host's events (R102). -/
def isReadEvent : HostEvent → Bool
  | .access w => !wordWe w
  | .reset _ => false

/-- A step of reset among the host's events (R321). -/
def isResetEvent : HostEvent → Bool
  | .access _ => false
  | .reset _ => true

/-- The RW registers of the map (spec/20_memory.md R71). -/
abbrev regWritable (a : Byte) : Prop :=
  a.toNat ≤ 0x1D ∨ a.toNat = 0x22 ∨ (0x24 ≤ a.toNat ∧ a.toNat ≤ 0x27) ∨ (0x30 ≤ a.toNat ∧ a.toNat ≤ 0x37)

/-- The reserved addresses of the map (R72). -/
abbrev regReserved (a : Byte) : Prop :=
  a.toNat = 0x23 ∨ (0x2C ≤ a.toNat ∧ a.toNat ≤ 0x2F) ∨ 0x40 ≤ a.toNat

/-- Two states hold the same registers of R30; only the host's side of the port may differ. -/
abbrev State.sameRegisters (s t : State) : Prop :=
  t = { s with pending := t.pending, returned := t.returned }

/-- The encoding is of a finite value (R9). -/
abbrev f64Finite (b : BitVec 64) : Prop := f64Exp b ≠ 2047

/-- `real(f64(b))` of a finite encoding, by the IEEE 754 binary64 formula (R9). -/
def f64Real (b : BitVec 64) : ℚ :=
  (if f64Sign b then -1 else 1) *
    (if f64Exp b = 0 then (f64Frac b : ℚ) * 2 ^ (-1074 : ℤ)
     else ((2 ^ 52 + f64Frac b : ℕ) : ℚ) * 2 ^ ((f64Exp b : ℤ) - 1075))

/-- `b` encodes `fl64(q)` (R9). From half a last place above the largest finite binary64, 2^1024 - 2^971, the result is
the infinity of `q`'s sign; below, a finite value nearest `q`, the one with an even fraction if another value is as near,
with the sign of `q`. The sign of a zero result of `q = 0` is left open. -/
def IsFl64 (q : ℚ) (b : BitVec 64) : Prop :=
  (0 < q → f64Sign b = false) ∧ (q < 0 → f64Sign b = true) ∧
  (2 ^ 1024 - 2 ^ 970 ≤ |q| → f64IsInf b = true) ∧
  (|q| < 2 ^ 1024 - 2 ^ 970 → f64Finite b ∧ ∀ c, f64Finite c →
    |f64Real b - q| ≤ |f64Real c - q| ∧
    (|f64Real b - q| = |f64Real c - q| → f64Real b ≠ f64Real c → f64Frac b % 2 = 0))

/-- Truncation toward zero (R9). -/
def truncQ (q : ℚ) : ℤ := if 0 ≤ q then ⌊q⌋ else ⌈q⌉

end Sys2Proof.Machine
end

