-- ==== Sys2Proof/Certificates/Slice0/Obligations.lean ====
section
/-! DEFINITION. The statements about the model, each with the rule of spec/ it formalises. -/

open Sys2Proof Sys2Proof.Machine

/-! ## The step, the words and their decoding -/

/-- R10: a step performs the host's next access, and nothing else happens around it. That a step with no access pending
leaves the state alone is the model's choice (log entry 2; R322 says the block waits), and so is the naming of a FENC by
its command code (log entry 3). -/
def Obligations.StepPerformsTheNextHostAccess : Prop :=
  (∀ (s : State) (w : BusWord) (rest : List HostEvent), s.pending = .access w :: rest →
      step s = exec (decodeAt s.cmd w) { s with pending := rest }) ∧
  (∀ s : State, s.pending = [] → step s = .next s)

/-- R101-R113, R121: words written out from the encodings decode to their rows. That a FENC word is named by the command
code in `CMD` (the last clause) is the model's choice (log entry 3). -/
def Obligations.WordsOfTheSpecDecodeToTheirRows : Prop :=
  decodeBus 0b0_00011111_00000000#17 = .rd 0x1F#8 ∧
  decodeBus 0b1_00011011_00010111#17 = .wr 0x1B#8 0x17#8 ∧
  decodeBus 0b1_00100000_11111_000#17 = .csum ∧
  decodeBus 0b1_00100000_00000_001#17 = .fenc ∧
  decodeBus 0b1_00100000_1_000_1_101#17 = .tfieldCurrent ∧
  decodeBus 0b1_00100000_0_100_0_101#17 = .tfieldVset ∧
  decodeBus 0b1_00100000_0_111_0_101#17 = .tfieldReserved67 ∧
  decodeBus 0b1_00100000_11111_110#17 = .reservedOp6 ∧
  decodeAt 0x26#8 0b1_00100000_00000_001#17 = .wireRead

/-- R102, R103: RD ignores its data field and is written with zero there; WR carries both fields, and one to `CTRL` is the
operation of its data byte. -/
def Obligations.RdAndWrWordsCarryTheirFields : Prop :=
  (∀ a d : Byte, decodeBus (0#1 ++ a ++ d : BitVec 17) = .rd a ∧ encode (.rd a) = (0#1 ++ a ++ 0#8 : BitVec 17)) ∧
  (∀ a d : Byte, a ≠ 0x20#8 →
      decodeBus (1#1 ++ a ++ d : BitVec 17) = .wr a d ∧ encode (.wr a d) = (1#1 ++ a ++ d : BitVec 17)) ∧
  (∀ d : Byte, decodeBus (1#1 ++ 0x20#8 ++ d : BitVec 17) = decodeCtrl d ∧
      ∀ s : State, exec (.wr 0x20#8 d) s = exec (decodeCtrl d) s)

/-- R104, R111-R113: every word decodes to exactly one well-formed instruction of the table, the one whose fixed bits the
word has; no row's bits are read from elsewhere and no two rows share a word. -/
def Obligations.EveryBusWordFitsExactlyItsDecodedRow : Prop :=
  ∀ w : BusWord,
    (decodeBus w).wellFormed = true ∧ isWireRow (decodeBus w) = false ∧
    ∀ i : Instr, i.wellFormed = true → isWireRow i = false → (rowFits i w ↔ decodeBus w = i)

/-- Decoding the encoding of a well-formed instruction, under a command code that presents it, gives it back: every
operand at every value. For RD, WR and the operations other than FENC this rests on R101-R113 alone. For FENC and the six
wire rows, which share FENC's word, it rests on the model's naming of that word by the code in `CMD` (log entry 3, DESIGN
CHOICE): R121 gives the codes, not the naming. -/
def Obligations.DecodeOfEncodeIsTheInstruction : Prop :=
  ∀ (i : Instr) (cmd : Byte), i.wellFormed = true → i.presentedWith cmd = true →
    decodeAt cmd (encode i) = i

/-- R110, R113: the written byte selects by `OP`, and `FSEL` for TFIELD only; bits 3 and 7 are ignored, `FSEL` is a
don't-care for every other `OP`; the reserved encodings report `ILLEGAL_OP` and write nothing else. -/
def Obligations.CtrlDontCareBitsAndReservedEncodings : Prop :=
  (∀ c c' : Byte, c.extractLsb' 0 3 = c'.extractLsb' 0 3 →
      (c.extractLsb' 0 3 = 5#3 → c.extractLsb' 4 3 = c'.extractLsb' 4 3) → decodeCtrl c = decodeCtrl c') ∧
  (∀ (c : Byte) (s : State),
      (c.extractLsb' 0 3 = 6#3 ∨ c.extractLsb' 0 3 = 7#3 ∨
        (c.extractLsb' 0 3 = 5#3 ∧ 5 ≤ (c.extractLsb' 4 3).toNat)) →
      exec (decodeCtrl c) s = .next { s with err := 6#3, errseen := true } ∧
      exec (.wr 0x20#8 c) s = .next { s with err := 6#3, errseen := true })

/-- R128: a command code has no meaning of its own. Whatever `CMD` holds, a step on a bus word is the word's own row, and
a FENC that finds `PLEN` at most 22 puts `CMD` at offset 2. So the model's naming of a FENC by its code (log entry 3)
changes no effect. -/
def Obligations.CommandCodesHaveNoMeaningOfTheirOwn : Prop :=
  ∀ (s : State) (w : BusWord) (rest : List HostEvent), s.pending = .access w :: rest →
    step s = exec (decodeBus w) { s with pending := rest } ∧
    (decodeBus w = .fenc → s.plen.toNat ≤ 22 → ∃ t, step s = .next t ∧ frameByte t.frame 2 = s.cmd)

/-! ## Whole-machine rules -/

/-- The block's invariant is kept by every step, whatever the host does. -/
def Obligations.EveryStepKeepsTheInvariant : Prop :=
  ∀ s t : State, s.Inv → step s = .next t → t.Inv

/-- The invariant holds right after reset. -/
def Obligations.ResetMeetsTheInvariant : Prop := State.reset.Inv

/-- R297 (the spec marks it derived): the block never stops: it performs any number of steps from any state; and `ERRSEEN`
clear at the end of a run without reset says it was clear all along. The steps after the host's last event are waits, which
are the model's choice (log entry 2). -/
def Obligations.TheBlockNeverHangsAndErrseenIsTheRunsRecord : Prop :=
  (∀ (n : ℕ) (s : State), ∃ t : State, Host.Core.run Sys2Proof.core n s = .next t) ∧
  (∀ (n : ℕ) (s t : State), Host.Core.run Sys2Proof.core n s = .next t → t.errseen = false →
      (∀ e ∈ s.pending.take n, isResetEvent e = false) →
      ∀ k ≤ n, ∀ u : State, Host.Core.run Sys2Proof.core k s = .next u → u.errseen = false)

/-- R41, R282: an operation that reports an error sets `ERRSEEN`, one that succeeds leaves it, and no step but reset
clears it. -/
def Obligations.ErrseenIsStickyUntilReset : Prop :=
  (∀ (i : Instr) (s t : State), isOperation i = true → exec i s = .next t →
      (t.err ≠ 0#3 → t.errseen = true) ∧ (t.err = 0#3 → t.errseen = s.errseen)) ∧
  (∀ s t : State, step s = .next t → s.errseen = true →
      (∀ e, s.pending.head? = some e → isResetEvent e = false) → t.errseen = true) ∧
  (∀ (s : State) (w : Option BusWord) (rest : List HostEvent), s.pending = .reset w :: rest →
      ∃ t, step s = .next t ∧ t.errseen = false) ∧
  State.reset.errseen = false

/-- R281: every operation writes `ERR`, so its outcome does not depend on the old code; RD and WR that are no `CTRL`
write leave `ERR`. Codes stay below 7. -/
def Obligations.EveryOperationAndNothingElseWritesErr : Prop :=
  (∀ (i : Instr) (s : State) (e : BitVec 3), isOperation i = true → exec i { s with err := e } = exec i s) ∧
  (∀ (i : Instr) (s t : State), isOperation i = true → exec i s = .next t → t.err ≠ 7#3) ∧
  (∀ (i : Instr) (s t : State), isOperation i = false → i.wellFormed = true → exec i s = .next t → t.err = s.err) ∧
  State.reset.err = 0#3

/-- R285: the first failing check of an operation decides its error code. -/
def Obligations.FirstFailingCheckDecidesTheError : Prop :=
  ∀ s : State,
    (∃ t, exec .csum s = .next t ∧ t.err = 0#3) ∧
    (∃ t, exec .fenc s = .next t ∧ t.err = if 22 < s.plen.toNat then 1#3 else 0#3) ∧
    (∃ t, exec .fver s = .next t ∧
      t.err = if 26 < s.rxlen.toNat then 4#3 else if s.rxlen.toNat < 26 then 2#3
        else if frameByte s.frame 25 ≠ checksum s.frame then 2#3 else 0#3) ∧
    (∃ t, exec .fxenc s = .next t ∧
      t.err = if f64IsNaN s.fxIn = true ∨ f64IsInf s.fxIn = true then 3#3
        else if f64IsInf (f64MulNat s.fxIn 1000) = true then 3#3
        else if f64Trunc (f64MulNat s.fxIn 1000) < 0 ∨ 2 ^ 32 - 1 < f64Trunc (f64MulNat s.fxIn 1000) then 3#3
        else 0#3) ∧
    (∃ t, exec .fxdec s = .next t ∧ t.err = if 4 < s.fxLen.toNat then 4#3 else 0#3) ∧
    (∀ c : Byte, c.extractLsb' 0 3 = 5#3 → ∃ t, exec (decodeCtrl c) s = .next t ∧
      t.err = if 4 < (c.extractLsb' 4 3).toNat then 6#3 else if s.valid = false then 5#3 else 0#3) ∧
    (∀ c : Byte, 6 ≤ (c.extractLsb' 0 3).toNat → ∃ t, exec (decodeCtrl c) s = .next t ∧ t.err = 6#3)

/-- R40: `VALID` after a step is 1 exactly when the step verified the buffer, or it was 1 and the step neither verified
nor wrote the buffer or `RXLEN` nor was a reset. Reset value 0. The disjunct of a step with nothing pending rests on the
model's choice of what such a step does (log entry 2, DESIGN CHOICE). -/
def Obligations.ValidHoldsExactlyWhileTheVerificationStands : Prop :=
  State.reset.valid = false ∧
  ∀ s t : State, step s = .next t →
    (t.valid = true ↔
      (s.pending = [] ∧ s.valid = true) ∨
      ∃ w rest, s.pending = .access w :: rest ∧
        ((decodeBus w = .fver ∧ s.rxlen = 26#8 ∧ frameByte s.frame 25 = checksum s.frame) ∨
         (s.valid = true ∧ decodeBus w ≠ .fver ∧ ¬ (decodeBus w = .fenc ∧ s.plen.toNat ≤ 22) ∧
            ∀ a d, decodeBus w = .wr a d → 0x1A < a.toNat)))

/-- R332 (the spec marks it derived): once a write to the buffer or to `RXLEN`, or a FENC, has cleared `VALID`, then as long as the host issues no
FVER, `REPLY` reads 0x00 and every TFIELD of a legal field reports `NOT_VALID`. -/
def Obligations.AccessorsStayDeadUntilTheNextFver : Prop :=
  ∀ (s t : State) (w : BusWord) (evs rest : List HostEvent),
    ((∃ a d, decodeBus w = .wr a d ∧ a.toNat ≤ 0x1A) ∨ (decodeBus w = .fenc ∧ s.plen.toNat ≤ 22)) →
    (∀ e ∈ evs, ∀ x, e = .access x → decodeBus x ≠ .fver) →
    s.pending = .access w :: (evs ++ rest) →
    Host.Core.run Sys2Proof.core (evs.length + 1) s = .next t →
    busRead t 0x21#8 = 0#8 ∧
    ∀ i ∈ [Instr.tfieldCurrent, .tfieldVoltage, .tfieldMaxCurrent, .tfieldMaxVoltage, .tfieldVset],
      exec i t = .next { t with err := 5#3, errseen := true }

/-- R11 (the spec marks it derived), R30: an operation is a function of the registers alone: what the host has still to send and what it has been
answered change nothing it writes, and it touches neither. -/
def Obligations.OperationsAreFunctionsOfTheRegisters : Prop :=
  (∀ (i : Instr) (s : State), isOperation i = true → ∃ t, exec i s = .next t ∧
      t.pending = s.pending ∧ t.returned = s.returned ∧
      ∀ (p : List HostEvent) (r : List Byte),
        exec i { s with pending := p, returned := r } = .next { t with pending := p, returned := r }) ∧
  (∀ (a : Byte) (s : State), ∃ t, exec (.rd a) s = .next t ∧ s.sameRegisters t)

/-- R33-R37, R49-R53, R334: which instructions can change which register; the whole machine's frame. A WR to `CTRL` is
the operation it selects and is covered by it. -/
def Obligations.EachRegisterChangesOnlyByItsWriters : Prop :=
  ∀ (i : Instr) (s t : State), i.wellFormed = true → exec i s = .next t →
    (t.rxlen ≠ s.rxlen → ∃ d, i = .wr 0x1A#8 d) ∧
    (t.plen ≠ s.plen → ∃ d, i = .wr 0x1B#8 d) ∧
    (t.addr ≠ s.addr → ∃ d, i = .wr 0x1C#8 d) ∧
    (t.cmd ≠ s.cmd → ∃ d, i = .wr 0x1D#8 d) ∧
    (t.fxIn ≠ s.fxIn → ∃ a d, i = .wr a d ∧ 0x30 ≤ a.toNat ∧ a.toNat ≤ 0x37) ∧
    (t.frame ≠ s.frame → (∃ a d, i = .wr a d ∧ a.toNat ≤ 0x19) ∨ i = .fenc ∨ isWireRow i = true) ∧
    (t.csum ≠ s.csum → i = .csum ∨ i = .fver ∨ i = .fenc ∨ isWireRow i = true) ∧
    (t.fxInt ≠ s.fxInt → i = .fxenc ∨ i = .fxdec ∨
      i ∈ [Instr.tfieldCurrent, .tfieldVoltage, .tfieldMaxCurrent, .tfieldMaxVoltage, .tfieldVset]) ∧
    (t.fxOut ≠ s.fxOut → i = .fxdec ∨
      i ∈ [Instr.tfieldCurrent, .tfieldVoltage, .tfieldMaxCurrent, .tfieldMaxVoltage, .tfieldVset]) ∧
    (t.fxLen ≠ s.fxLen → (∃ d, i = .wr 0x22#8 d) ∨ i = .fxenc ∨
      i ∈ [Instr.tfieldCurrent, .tfieldVoltage, .tfieldMaxCurrent, .tfieldMaxVoltage, .tfieldVset]) ∧
    (t.fxBytes ≠ s.fxBytes → (∃ a d, i = .wr a d ∧ 0x24 ≤ a.toNat ∧ a.toNat ≤ 0x27) ∨ i = .fxenc ∨
      i ∈ [Instr.tfieldCurrent, .tfieldVoltage, .tfieldMaxCurrent, .tfieldMaxVoltage, .tfieldVset]) ∧
    (t.valid ≠ s.valid → (∃ a d, i = .wr a d ∧ a.toNat ≤ 0x1A) ∨ i = .fver ∨ i = .fenc ∨ isWireRow i = true) ∧
    ((t.err ≠ s.err ∨ t.errseen ≠ s.errseen) → isOperation i = true) ∧
    t.pending = s.pending ∧
    (t.returned ≠ s.returned → ∃ a, i = .rd a)

/-- R10, R80, R260, R321: a step takes the host's next event, and only a read is answered, by one byte; a read made in the
step of a reset is answered 0x00, and a reset with a write or with no access is not answered (events: log entry 7). That a
step with nothing pending leaves the port alone is the model's choice (log entry 2). -/
def Obligations.AStepTakesOneEventAndAnswersOnlyReads : Prop :=
  ∀ s t : State, step s = .next t →
    t.pending = s.pending.tail ∧
    (∀ w rest, s.pending = .access w :: rest →
      (wordWe w = true → t.returned = s.returned) ∧
      (wordWe w = false → ∃ b, t.returned = s.returned ++ [b])) ∧
    (∀ w rest, s.pending = .reset w :: rest →
      (∀ x, w = some x → wordWe x = false → t.returned = s.returned ++ [0#8]) ∧
      ((∀ x, w = some x → wordWe x = true) → t.returned = s.returned)) ∧
    (s.pending = [] → t.returned = s.returned)

/-! ## Reset -/

/-- R55: the reset value of every piece of state, and of every address of the register space. -/
def Obligations.ResetValues : Prop :=
  (∀ i, frameByte State.reset.frame i = 0#8) ∧
  State.reset.rxlen = 0#8 ∧ State.reset.plen = 0#8 ∧ State.reset.addr = 0#8 ∧ State.reset.cmd = 0#8 ∧
  State.reset.csum = 0#8 ∧ State.reset.err = 0#3 ∧ State.reset.valid = false ∧ State.reset.errseen = false ∧
  State.reset.fxLen = 0#8 ∧ (∀ i, fxByte State.reset.fxBytes i = 0#8) ∧ State.reset.fxInt = 0#32 ∧
  State.reset.fxIn = 0#64 ∧ State.reset.fxOut = 0#64 ∧
  ∀ a : Byte, busRead State.reset a = 0#8

/-- R320, R321: a step with reset asserted puts every register at its reset value from any state; a write in the same
step is ignored and a read is answered 0x00. The clauses about `pending` and `returned` are the model's: that a reset and
the access made with it are one event, and that both fields outlive the reset, is read from R321 by inference (log entry 7,
DEDUCED). -/
def Obligations.ResetWinsFromAnyState : Prop :=
  ∀ (s : State) (w : Option BusWord) (rest : List HostEvent), s.pending = .reset w :: rest →
    ∃ t, step s = .next t ∧ State.reset.sameRegisters t ∧ (∀ a, busRead t a = 0#8) ∧ t.pending = rest ∧
      (w = none → t.returned = s.returned) ∧
      (∀ x, w = some x → x.getLsbD 16 = true → t.returned = s.returned) ∧
      (∀ x, w = some x → x.getLsbD 16 = false → t.returned = s.returned ++ [0#8])

/-- R323 (the spec marks it derived): the all-zero buffer of reset is checksum-valid, and an FVER with `RXLEN` 26 accepts it though it holds no
frame. -/
def Obligations.ResetBufferVerifies : Prop :=
  checksumValid State.reset.frame = true ∧
  ∀ (s : State) (rest : List HostEvent), State.reset.sameRegisters s →
    s.pending = .access (wrWord 0x1A#8 26#8) :: .access (encode .fver) :: rest →
    ∃ t, Host.Core.run Sys2Proof.core 2 s = .next t ∧ t.valid = true ∧ t.err = 0#3 ∧ t.csum = 0#8 ∧
      frameByte t.frame 0 ≠ 0xAA#8

/-! ## Host accesses -/

/-- R260: what an RD of each address returns; it changes no register. -/
def Obligations.RdReturnsTheAddressedByte : Prop :=
  ∀ (s : State) (a : Byte), ∃ b, exec (.rd a) s = .next { s with returned := s.returned ++ [b] } ∧
    (∀ i : Fin 26, a.toNat = i.val → b = s.frame[i]) ∧
    (a = 0x1A#8 → b = s.rxlen) ∧ (a = 0x1B#8 → b = s.plen) ∧ (a = 0x1C#8 → b = s.addr) ∧
    (a = 0x1D#8 → b = s.cmd) ∧ (a = 0x1E#8 → b = s.csum) ∧ (a = 0x1F#8 → b = statusByte s) ∧
    (a = 0x20#8 → b = 0#8) ∧ (a = 0x21#8 → b = replyByte s) ∧ (a = 0x22#8 → b = s.fxLen) ∧
    (∀ i : Fin 4, a.toNat = 0x24 + i.val → b = s.fxBytes[i]) ∧
    (∀ k < 4, a.toNat = 0x28 + k → ∀ j < 8, b.getLsbD j = s.fxInt.getLsbD (8 * k + j)) ∧
    (∀ k < 8, a.toNat = 0x30 + k → ∀ j < 8, b.getLsbD j = s.fxIn.getLsbD (8 * k + j)) ∧
    (∀ k < 8, a.toNat = 0x38 + k → ∀ j < 8, b.getLsbD j = s.fxOut.getLsbD (8 * k + j)) ∧
    (regReserved a → b = 0#8)

/-- R38, R42: the layout of the `STATUS` byte, which is read-only to the host and 0x00 after reset. -/
def Obligations.StatusByteLayout : Prop :=
  ∀ s : State, ∃ b, exec (.rd 0x1F#8) s = .next { s with returned := s.returned ++ [b] } ∧
    b.extractLsb' 0 3 = s.err ∧ b.getLsbD 3 = false ∧ b.getLsbD 4 = s.valid ∧ b.getLsbD 5 = false ∧
    b.getLsbD 6 = false ∧ b.getLsbD 7 = s.errseen ∧
    b.toNat = s.err.toNat + 16 * s.valid.toNat + 128 * s.errseen.toNat ∧
    (∀ d : Byte, exec (.wr 0x1F#8 d) s = .next s) ∧ busRead State.reset 0x1F#8 = 0#8

/-- R262, R263, R84: after a WR to an RW address an RD there returns the written byte, every other address reads as
before (`STATUS` and `REPLY` up to `VALID`), and `VALID` falls exactly for `FRAME` and `RXLEN`; a WR to `CTRL` performs
the operation of its byte; a WR anywhere else changes nothing. -/
def Obligations.WrStoresAtTheAddressedByteOnly : Prop :=
  ∀ (s : State) (a d : Byte),
    (regWritable a → ∃ t, exec (.wr a d) s = .next t ∧ busRead t a = d ∧
      (∀ b, b ≠ a → b ≠ 0x1F#8 → b ≠ 0x21#8 → busRead t b = busRead s b) ∧
      t.err = s.err ∧ t.errseen = s.errseen ∧
      (a.toNat ≤ 0x1A → t.valid = false) ∧ (0x1A < a.toNat → t.valid = s.valid) ∧
      t.pending = s.pending ∧ t.returned = s.returned) ∧
    (a = 0x20#8 → exec (.wr a d) s = exec (decodeCtrl d) s) ∧
    (¬ regWritable a → a ≠ 0x20#8 → exec (.wr a d) s = .next s)

/-- R72, R73, R74: reserved addresses read 0x00 and ignore writes; read-only registers ignore writes; an RD of `CTRL`
returns 0x00 and issues no operation. -/
def Obligations.ReservedAndReadOnlyAccesses : Prop :=
  (∀ (s : State) (a : Byte), regReserved a →
      exec (.rd a) s = .next { s with returned := s.returned ++ [0#8] } ∧ ∀ d, exec (.wr a d) s = .next s) ∧
  (∀ (s : State) (a d : Byte),
      (a = 0x1E#8 ∨ a = 0x1F#8 ∨ a = 0x21#8 ∨ (0x28 ≤ a.toNat ∧ a.toNat ≤ 0x2B) ∨
        (0x38 ≤ a.toNat ∧ a.toNat ≤ 0x3F)) → exec (.wr a d) s = .next s) ∧
  (∀ s : State, exec (.rd 0x20#8) s = .next { s with returned := s.returned ++ [0#8] })

/-- R44-R48, R180-R183: the `REPLY` view. -/
def Obligations.ReplyViewOfTheVerifiedFrame : Prop :=
  ∀ s : State, ∃ b, exec (.rd 0x21#8) s = .next { s with returned := s.returned ++ [b] } ∧
    (s.valid = false → b = 0#8) ∧
    (s.valid = true → b.getLsbD 7 = true ∧ b.getLsbD 6 = false ∧ b.getLsbD 5 = false ∧
      (b.getLsbD 0 = true ↔ frameByte s.frame 3 = 0x12#8) ∧
      (b.getLsbD 1 = true ↔ frameByte s.frame 9 ≠ 0#8) ∧
      b.extractLsb' 2 3 =
        (if frameByte s.frame 4 = 0x80#8 then 1#3 else if frameByte s.frame 4 = 0x90#8 then 2#3
         else if frameByte s.frame 4 = 0xA0#8 then 3#3 else if frameByte s.frame 4 = 0xB0#8 then 4#3
         else if frameByte s.frame 4 = 0xC0#8 then 5#3 else 0#3))

/-- R184, R185 (the spec marks them derived): the host's success test is `RVALID` with `SCLASS` 1. That the test does not
require `IS_STATUS = 1` as well (the last clause) is the model's choice: R184 says that it is not stated (log entry 15). -/
def Obligations.SuccessTestIsRvalidWithSclassOne : Prop :=
  ∀ s : State, (successTest s = true ↔
      (busRead s 0x21#8).getLsbD 7 = true ∧ (busRead s 0x21#8).extractLsb' 2 3 = 1#3) ∧
    ∀ d : Byte, successTest { s with frame := s.frame.setIfInBounds 3 d } = successTest s

/-- R135, R76, R78: eight WR of a `WRN` line load a multi-byte register least significant byte first, and the `RDN` line
reads the same bytes back. -/
def Obligations.WrnThenRdnOfFxInMovesTheValue : Prop :=
  ∀ (s : State) (v : BitVec 64) (rest : List HostEvent),
    s.pending = ((HostLine.wrn (.fxIn 0) 8 v.toNat).expand ++ (HostLine.rdn (.fxIn 0) 8).expand).map HostEvent.access
      ++ rest →
    ∃ t, Host.Core.run Sys2Proof.core 16 s = .next t ∧
      t = { s with fxIn := v, pending := rest, returned := t.returned } ∧
      t.returned = s.returned ++ (List.range 8).map fun k => BitVec.ofNat 8 (v.toNat / 2 ^ (8 * k))

/-- R6, R82: the block's window is the 256 bytes from `CODEC_BASE`, wherever that stands. -/
def Obligations.TheWindowIsTheHostAddressesFromTheBase : Prop :=
  ∀ (base h : ℕ) (a : Byte), Config.windowAddress base h = some a ↔ h = Config.hostAddress base a

/-! ## The checksum -/

/-- R150, R152: CSUM. -/
def Obligations.CsumWritesTheModulo256Sum : Prop :=
  (∀ c : Byte, c.extractLsb' 0 3 = 0#3 → decodeCtrl c = .csum) ∧
  ∀ s : State, ∃ t, exec .csum s = .next t ∧
    t.csum.toNat = (∑ i ∈ Finset.range 25, (frameByte s.frame i).toNat) % 256 ∧
    t.err = 0#3 ∧ t = { s with csum := t.csum, err := t.err }

/-- R151 (the spec marks it derived): the exact sum needs 13 bits, and an adder of any width from 8 bits up, adding the bytes in any order and
dropping carries, has the checksum in its low 8 bits. -/
def Obligations.AnyAdderOfEightBitsOrMoreGivesTheChecksum : Prop :=
  ∀ f : Frame,
    (∑ i ∈ Finset.range 25, (frameByte f i).toNat) ≤ 6375 ∧
    ∀ (l : List Byte), l.Perm (f.toList.take 25) → ∀ n : ℕ, 8 ≤ n →
      (l.foldl (fun (acc : BitVec n) b => acc + b.setWidth n) (0#n)).setWidth 8 = checksum f

/-- R153, R154 (the spec marks R154 derived): changing one byte of a checksum-valid buffer always breaks it; opposite changes of two summed bytes
cancel. -/
def Obligations.SingleByteChangesAreDetected : Prop :=
  ∀ f : Frame, checksumValid f = true →
    (∀ i < 26, ∀ b : Byte, b ≠ frameByte f i → checksumValid (f.setIfInBounds i b) = false) ∧
    (∀ i ≤ 24, ∀ j ≤ 24, i ≠ j → ∀ d : Byte,
      checksumValid ((f.setIfInBounds i (frameByte f i + d)).setIfInBounds j (frameByte f j - d)) = true)

/-! ## The frame codec -/

/-- R170: FENC. -/
def Obligations.FencBuildsTheOutboundFrame : Prop :=
  (∀ c : Byte, c.extractLsb' 0 3 = 1#3 → decodeCtrl c = .fenc) ∧
  ∀ s : State,
    (22 < s.plen.toNat → exec .fenc s = .next { s with err := 1#3, errseen := true }) ∧
    (s.plen.toNat ≤ 22 → ∃ t, exec .fenc s = .next t ∧
      frameByte t.frame 0 = 0xAA#8 ∧ frameByte t.frame 1 = s.addr ∧ frameByte t.frame 2 = s.cmd ∧
      (∀ k, 3 ≤ k → k < 3 + s.plen.toNat → frameByte t.frame k = frameByte s.frame k) ∧
      (∀ k, 3 + s.plen.toNat ≤ k → k ≤ 24 → frameByte t.frame k = 0#8) ∧
      (frameByte t.frame 25).toNat = (∑ i ∈ Finset.range 25, (frameByte t.frame i).toNat) % 256 ∧
      t.csum = frameByte t.frame 25 ∧ t.valid = false ∧ t.err = 0#3 ∧
      t = { s with frame := t.frame, csum := t.csum, valid := t.valid, err := t.err })

/-- R171 (the spec marks it derived): FENC leaves the frame `encode(ADDR, CMD, p)` of the source for the staged payload `p`. -/
def Obligations.FencMeetsTheEncodeContract : Prop :=
  ∀ (s : State) (p : List Byte), p.length ≤ 22 → s.plen.toNat = p.length →
    (s.frame.toList.drop 3).take p.length = p →
    ∃ t, exec .fenc s = .next t ∧
      t.frame.toList = [0xAA#8, s.addr, s.cmd] ++ p ++ List.replicate (22 - p.length) 0#8 ++
        [BitVec.ofNat 8 (([0xAA#8, s.addr, s.cmd] ++ p).map BitVec.toNat).sum]

/-- R331 (the spec marks it derived): what stands outside the staged payload has no effect on the frame built. -/
def Obligations.FencIgnoresUnstagedBytes : Prop :=
  ∀ s s' : State, s.addr = s'.addr → s.cmd = s'.cmd → s.plen = s'.plen → s.plen.toNat ≤ 22 →
    (∀ k, 3 ≤ k → k < 3 + s.plen.toNat → frameByte s.frame k = frameByte s'.frame k) →
    ∃ t t', exec .fenc s = .next t ∧ exec .fenc s' = .next t' ∧ t.frame = t'.frame ∧ t.csum = t'.csum

/-- R121-R127, R170: the row of each wire command is FENC carrying its code, which is the model's reading of the row (log
entry 3): with the payload length of the command the
frame is marker, address, code, payload, zeros and checksum; every payload length up to 22 is carried (R128), a longer one
reports `ENCODING`. -/
def Obligations.WireRowsCarryTheirCommandCode : Prop :=
  ∀ p ∈ [(Instr.wireRemote, 0x20#8, 1), (.wireOutput, 0x21#8, 1), (.wireSetMaxV, 0x22#8, 4), (.wireSetV, 0x23#8, 4),
      (.wireSetMaxI, 0x24#8, 4), (.wireRead, 0x26#8, 0)],
    (∃ r ∈ Config.wireCommands, r.code = p.2.1 ∧ r.payload.len = p.2.2) ∧
    ∀ s : State,
      (22 < s.plen.toNat → exec p.1 s = .next { s with err := 1#3, errseen := true }) ∧
      (s.plen.toNat ≤ 22 → ∃ t, exec p.1 s = .next t ∧
        t = { s with frame := t.frame, csum := t.csum, valid := t.valid, err := t.err } ∧
        t.valid = false ∧ t.err = 0#3 ∧ t.csum = frameByte t.frame 25 ∧ checksumValid t.frame = true ∧
        frameByte t.frame 0 = 0xAA#8 ∧ frameByte t.frame 1 = s.addr ∧ frameByte t.frame 2 = p.2.1 ∧
        (∀ k, 3 ≤ k → k < 3 + s.plen.toNat → frameByte t.frame k = frameByte s.frame k) ∧
        (∀ k, 3 + s.plen.toNat ≤ k → k ≤ 24 → frameByte t.frame k = 0#8)) ∧
      (s.plen.toNat = p.2.2 → ∃ t, exec p.1 s = .next t ∧
        t.frame.toList.take 25 =
          [0xAA#8, s.addr, p.2.1] ++ (s.frame.toList.drop 3).take p.2.2 ++ List.replicate (22 - p.2.2) 0#8) ∧
      (s.cmd = p.2.1 → exec p.1 s = exec .fenc s)

/-- R175, R176, R177: FVER. It succeeds on length and checksum alone; a second FVER changes nothing. -/
def Obligations.FverChecksLengthAndChecksumOnly : Prop :=
  (∀ c : Byte, c.extractLsb' 0 3 = 2#3 → decodeCtrl c = .fver) ∧
  ∀ s : State, ∃ t, exec .fver s = .next t ∧
    t.csum.toNat = (∑ i ∈ Finset.range 25, (frameByte s.frame i).toNat) % 256 ∧
    (26 < s.rxlen.toNat → t.valid = false ∧ t.err = 4#3 ∧ t.errseen = true) ∧
    (s.rxlen.toNat < 26 → t.valid = false ∧ t.err = 2#3 ∧ t.errseen = true) ∧
    (s.rxlen.toNat = 26 → frameByte s.frame 25 ≠ t.csum → t.valid = false ∧ t.err = 2#3 ∧ t.errseen = true) ∧
    (s.rxlen.toNat = 26 → frameByte s.frame 25 = t.csum →
      t.valid = true ∧ t.err = 0#3 ∧ t.errseen = s.errseen) ∧
    t = { s with csum := t.csum, valid := t.valid, err := t.err, errseen := t.errseen } ∧
    exec .fver t = .next t

/-- R186 (the spec marks it derived): encode-then-verify, with any reads the host likes in between. -/
def Obligations.EncodeThenVerifySucceeds : Prop :=
  ∀ (s : State) (wEnc wLen wVer : BusWord) (reads₁ reads₂ rest : List HostEvent),
    decodeBus wEnc = .fenc → decodeBus wLen = .wr 0x1A#8 26#8 → decodeBus wVer = .fver →
    (∀ e ∈ reads₁ ++ reads₂, isReadEvent e = true) → s.plen.toNat ≤ 22 →
    s.pending = .access wEnc :: (reads₁ ++ .access wLen :: (reads₂ ++ .access wVer :: rest)) →
    ∃ t, Host.Core.run Sys2Proof.core (reads₁.length + reads₂.length + 3) s = .next t ∧
      t.valid = true ∧ t.err = 0#3 ∧ frameByte t.frame 2 = s.cmd ∧
      (∀ k, 3 ≤ k → k < 3 + s.plen.toNat → frameByte t.frame k = frameByte s.frame k) ∧
      t.pending = rest

/-- R187 (the spec marks it derived): tamper detection. -/
def Obligations.AlteredChecksumByteIsDetected : Prop :=
  ∀ (s t u : State) (b : Byte), exec .fver s = .next t → t.valid = true → b ≠ frameByte t.frame 25 →
    exec (.wr 0x19#8 b) t = .next u →
    ∃ v, exec .fver u = .next v ∧ v.err = 2#3 ∧ v.valid = false ∧ v.errseen = true

/-! ## The fixed-point transform -/

/-- R9: the model's rounding is round to nearest, ties to even, with overflow to infinity: on every nonnegative rational
given as whole units of 2^-1074, with either sign. Where the overflow begins is the model's reading of R9 (log entry 6). -/
def Obligations.RoundingIsNearestEvenWithOverflow : Prop :=
  ∀ (sign : Bool) (num den : ℕ), 0 < den →
    IsFl64 ((if sign then -1 else 1) * ((num : ℚ) / den * 2 ^ (-1074 : ℤ))) (f64Pack sign (f64RoundUnits num den))

/-- R220, R221: FXENC. `p` is the rounded product, `n` its truncation. -/
def Obligations.FxencScalesRoundsTruncates : Prop :=
  (∀ c : Byte, c.extractLsb' 0 3 = 3#3 → decodeCtrl c = .fxenc) ∧
  ∀ s : State,
    ((f64IsNaN s.fxIn = true ∨ f64IsInf s.fxIn = true) →
      exec .fxenc s = .next { s with err := 3#3, errseen := true }) ∧
    (f64Finite s.fxIn → ∃ p, IsFl64 (f64Real s.fxIn * 1000) p ∧
      (f64IsInf p = true → exec .fxenc s = .next { s with err := 3#3, errseen := true }) ∧
      (f64Finite p → (truncQ (f64Real p) < 0 ∨ 2 ^ 32 - 1 < truncQ (f64Real p)) →
        exec .fxenc s = .next { s with err := 3#3, errseen := true }) ∧
      (f64Finite p → 0 ≤ truncQ (f64Real p) → truncQ (f64Real p) ≤ 2 ^ 32 - 1 →
        ∃ t, exec .fxenc s = .next t ∧ (t.fxInt.toNat : ℤ) = truncQ (f64Real p) ∧
          (∀ k < 4, (fxByte t.fxBytes k).toNat = t.fxInt.toNat / 2 ^ (8 * k) % 256) ∧
          t.fxLen = 4#8 ∧ t.err = 0#3 ∧
          t = { s with fxInt := t.fxInt, fxBytes := t.fxBytes, fxLen := t.fxLen, err := t.err }))

/-- R220's bounds: the accepted inputs are the binary64 from 0 up to 0x4150624DD2F1A9FB, and the negative ones (zero
among them) below 0.001 in magnitude; all others report `RANGE`. -/
def Obligations.FxencAcceptsExactlyTheseEncodings : Prop :=
  ∀ s : State,
    (if f64Sign s.fxIn then (s.fxIn.extractLsb' 0 63).toNat < 0x3F50624DD2F1A9FC
     else (s.fxIn.extractLsb' 0 63).toNat ≤ 0x4150624DD2F1A9FB) ↔
    ∃ t, exec .fxenc s = .next t ∧ t.err = 0#3

/-- R222: FXDEC. -/
def Obligations.FxdecAccumulatesAndDivides : Prop :=
  (∀ c : Byte, c.extractLsb' 0 3 = 4#3 → decodeCtrl c = .fxdec) ∧
  ∀ s : State,
    (4 < s.fxLen.toNat → exec .fxdec s = .next { s with err := 4#3, errseen := true }) ∧
    (s.fxLen.toNat ≤ 4 → ∃ t, exec .fxdec s = .next t ∧
      t.fxInt.toNat = ∑ i ∈ Finset.range s.fxLen.toNat, (fxByte s.fxBytes i).toNat * 2 ^ (8 * i) ∧
      IsFl64 ((t.fxInt.toNat : ℚ) / 1000) t.fxOut ∧ f64Sign t.fxOut = false ∧ f64Finite t.fxOut ∧
      t.err = 0#3 ∧ t = { s with fxInt := t.fxInt, fxOut := t.fxOut, err := t.err })

/-- R223, R112, R131: TFIELD on the five fields of a verified frame, its guard, and the reserved selects whose check comes
first. -/
def Obligations.TfieldExtractsTheSelectedField : Prop :=
  (∀ p ∈ [(0, Instr.tfieldCurrent, 3, 2), (1, .tfieldVoltage, 5, 4), (2, .tfieldMaxCurrent, 10, 2),
      (3, .tfieldMaxVoltage, 12, 4), (4, .tfieldVset, 16, 4)],
    (∀ c : Byte, c.extractLsb' 0 3 = 5#3 → (c.extractLsb' 4 3).toNat = p.1 → decodeCtrl c = p.2.1) ∧
    ∀ s : State,
      (s.valid = false → exec p.2.1 s = .next { s with err := 5#3, errseen := true }) ∧
      (s.valid = true → ∃ t, exec p.2.1 s = .next t ∧
        (∀ i < 4, fxByte t.fxBytes i = if i < p.2.2.2 then frameByte s.frame (p.2.2.1 + i) else 0#8) ∧
        t.fxLen.toNat = p.2.2.2 ∧
        t.fxInt.toNat = ∑ i ∈ Finset.range p.2.2.2, (frameByte s.frame (p.2.2.1 + i)).toNat * 2 ^ (8 * i) ∧
        IsFl64 ((t.fxInt.toNat : ℚ) / 1000) t.fxOut ∧ f64Sign t.fxOut = false ∧ t.err = 0#3 ∧
        t = { s with fxBytes := t.fxBytes, fxLen := t.fxLen, fxInt := t.fxInt, fxOut := t.fxOut, err := t.err })) ∧
  (∀ (c : Byte) (s : State), c.extractLsb' 0 3 = 5#3 → 4 < (c.extractLsb' 4 3).toNat →
    exec (decodeCtrl c) s = .next { s with err := 6#3, errseen := true })

/-- R225 (the spec marks its bound derived): decoding an integer and encoding the decimal gives the integer or one less, and one less exactly when the
rounded product falls below it. -/
def Obligations.FixedPointRoundTripLosesAtMostOne : Prop :=
  ∀ s : State, s.fxLen.toNat ≤ 4 →
    ∃ t u, exec .fxdec s = .next t ∧ exec .fxenc { t with fxIn := t.fxOut } = .next u ∧ u.err = 0#3 ∧
      (u.fxInt = t.fxInt ∨ u.fxInt.toNat + 1 = t.fxInt.toNat) ∧
      ∃ p, IsFl64 (f64Real t.fxOut * 1000) p ∧
        (u.fxInt.toNat + 1 = t.fxInt.toNat ↔ f64Real p < t.fxInt.toNat)

/-- R226 (the spec marks it derived): the round trip is exact for every multiple of 1000, and whenever the rounded product is not below the
integer. -/
def Obligations.FixedPointRoundTripExactCases : Prop :=
  ∀ s : State, s.fxLen.toNat ≤ 4 →
    ∃ t u, exec .fxdec s = .next t ∧ exec .fxenc { t with fxIn := t.fxOut } = .next u ∧
      (∀ m : ℕ, t.fxInt.toNat = 1000 * m → f64Real t.fxOut = m ∧ u.err = 0#3 ∧ u.fxInt = t.fxInt) ∧
      (∀ p, IsFl64 (f64Real t.fxOut * 1000) p → (t.fxInt.toNat : ℚ) ≤ f64Real p →
        u.err = 0#3 ∧ u.fxInt = t.fxInt)
end

