-- ==== Sys2Proof/Laws/Bytes.lean ====
section
/-! SUPPORT. The byte buffers: reading one byte of a frame or of `FX_BYTES` after each way of writing it, and the
checksum as a number. -/

namespace Sys2Proof.Machine

theorem frameByte_lt (f : Frame) {i : Nat} (h : i < 26) : frameByte f i = f[i] := by simp [frameByte, h]

@[simp] theorem frameByte_ofFn (g : Fin 26 → Byte) (i : Fin 26) : frameByte (Vector.ofFn g) i.val = g i := by
  simp [frameByte]

theorem frameByte_ofFn_lt (g : Fin 26 → Byte) {i : Nat} (h : i < 26) : frameByte (Vector.ofFn g) i = g ⟨i, h⟩ := by
  simp [frameByte, h]

/-- Reading back the byte just written. -/
theorem frameByte_set_self (f : Frame) {i : Nat} (h : i < 26) (b : Byte) :
    frameByte (f.setIfInBounds i b) i = b := by
  simp [frameByte, h]

/-- A write leaves every other offset alone. -/
theorem frameByte_set_ne (f : Frame) {i j : Nat} (h : i ≠ j) (b : Byte) :
    frameByte (f.setIfInBounds i b) j = frameByte f j := by
  by_cases hj : j < 26 <;> simp [frameByte, hj, h]

theorem frame_ext {f g : Frame} (h : ∀ i < 26, frameByte f i = frameByte g i) : f = g := by
  apply Vector.ext
  intro i hi
  simpa [frameByte, hi] using h i hi

theorem fxByte_ofFn_lt (g : Fin 4 → Byte) {i : Nat} (h : i < 4) : fxByte (Vector.ofFn g) i = g ⟨i, h⟩ := by
  simp [fxByte, h]

theorem fxByte_set_self (f : FxBytes) {i : Nat} (h : i < 4) (b : Byte) : fxByte (f.setIfInBounds i b) i = b := by
  simp [fxByte, h]

theorem fxByte_set_ne (f : FxBytes) {i j : Nat} (h : i ≠ j) (b : Byte) :
    fxByte (f.setIfInBounds i b) j = fxByte f j := by
  by_cases hj : j < 4 <;> simp [fxByte, hj, h]

/-- R150 as a number. -/
theorem checksum_toNat (f : Frame) :
    (checksum f).toNat = ((List.range 25).map fun i => (frameByte f i).toNat).sum % 256 := by
  simp [checksum, Config.csumSpan]

/-- The checksum depends on offsets 0 to 24 only (R150). -/
theorem checksum_congr {f g : Frame} (h : ∀ i < 25, frameByte f i = frameByte g i) : checksum f = checksum g := by
  have : (List.range 25).map (fun i => (frameByte f i).toNat) = (List.range 25).map fun i => (frameByte g i).toNat :=
    List.map_congr_left fun i hi => by rw [h i (List.mem_range.mp hi)]
  simp only [checksum, Config.csumSpan, this]

/-- Byte 25 is never part of the sum (R150, R152). -/
theorem checksum_set_last (f : Frame) (b : Byte) : checksum (f.setIfInBounds 25 b) = checksum f :=
  checksum_congr fun _ hi => frameByte_set_ne f (Nat.ne_of_gt hi) b

/-- Little-endian accumulation of `len` bytes fits `8 * len` bits (R222). -/
theorem littleEndianSum_lt_pow (bs : FxBytes) (len : Nat) : littleEndianSum bs len < 2 ^ (8 * len) := by
  induction len with
  | zero => simp [littleEndianSum]
  | succ n ih =>
    have hb : (fxByte bs n).toNat + 1 ≤ 256 := (fxByte bs n).isLt
    have hstep : littleEndianSum bs (n + 1) = littleEndianSum bs n + (fxByte bs n).toNat * 2 ^ (8 * n) := by
      simp [littleEndianSum, List.range_succ]
    have hpow : 2 ^ (8 * (n + 1)) = 256 * 2 ^ (8 * n) := by rw [Nat.mul_succ, Nat.pow_add]; omega
    rw [hstep, hpow]
    calc littleEndianSum bs n + (fxByte bs n).toNat * 2 ^ (8 * n)
        < 2 ^ (8 * n) + (fxByte bs n).toNat * 2 ^ (8 * n) := by omega
      _ = ((fxByte bs n).toNat + 1) * 2 ^ (8 * n) := by rw [Nat.add_mul]; omega
      _ ≤ 256 * 2 ^ (8 * n) := Nat.mul_le_mul_right _ hb

/-- At most four bytes fit `FX_INT` (R222). -/
theorem littleEndianSum_lt (bs : FxBytes) {len : Nat} (h : len ≤ 4) : littleEndianSum bs len < 2 ^ 32 :=
  Nat.lt_of_lt_of_le (littleEndianSum_lt_pow bs len) (Nat.pow_le_pow_right (by decide) (by omega))

end Sys2Proof.Machine
end

