-- ==== Sys2Proof/Laws/Fl64.lean ====
section
/-! SUPPORT. A rational that is a binary64 value is its own rounding (spec/00_scope.md R9). -/

namespace Sys2Proof.Machine

/-- A finite encoding of exactly `q`, with the sign of `q`, encodes `fl64(q)`. -/
theorem isFl64_of_exact {q : ℚ} {b : BitVec 64} (hb : f64Finite b) (hq : f64Real b = q)
    (hlim : |q| < 2 ^ 1024 - 2 ^ 970) (hpos : 0 < q → f64Sign b = false) (hneg : q < 0 → f64Sign b = true) :
    IsFl64 q b := by
  refine ⟨hpos, hneg, fun h => absurd hlim (not_lt.mpr h), fun _ => ⟨hb, fun c _ => ?_⟩⟩
  have h0 : |f64Real b - q| = 0 := by rw [hq, sub_self, abs_zero]
  refine ⟨by rw [h0]; exact abs_nonneg _, fun he hne => ?_⟩
  have hc : f64Real c = q := sub_eq_zero.mp (abs_eq_zero.mp (he.symm.trans h0))
  exact absurd (hq.trans hc.symm) hne

end Sys2Proof.Machine
end

