-- ==== Sys2Proof/Laws/State.lean ====
section
/-! SUPPORT. One lemma per field for each named update of the state, so that no later proof unfolds an update. -/

namespace Sys2Proof.Machine

@[simp] theorem State.raise_frame (s : State) (e : ErrCode) : (s.raise e).frame = s.frame := rfl
@[simp] theorem State.raise_rxlen (s : State) (e : ErrCode) : (s.raise e).rxlen = s.rxlen := rfl
@[simp] theorem State.raise_plen (s : State) (e : ErrCode) : (s.raise e).plen = s.plen := rfl
@[simp] theorem State.raise_addr (s : State) (e : ErrCode) : (s.raise e).addr = s.addr := rfl
@[simp] theorem State.raise_cmd (s : State) (e : ErrCode) : (s.raise e).cmd = s.cmd := rfl
@[simp] theorem State.raise_csum (s : State) (e : ErrCode) : (s.raise e).csum = s.csum := rfl
@[simp] theorem State.raise_err (s : State) (e : ErrCode) : (s.raise e).err = e.code := rfl
@[simp] theorem State.raise_valid (s : State) (e : ErrCode) : (s.raise e).valid = s.valid := rfl
@[simp] theorem State.raise_errseen (s : State) (e : ErrCode) : (s.raise e).errseen = true := rfl
@[simp] theorem State.raise_fxLen (s : State) (e : ErrCode) : (s.raise e).fxLen = s.fxLen := rfl
@[simp] theorem State.raise_fxBytes (s : State) (e : ErrCode) : (s.raise e).fxBytes = s.fxBytes := rfl
@[simp] theorem State.raise_fxInt (s : State) (e : ErrCode) : (s.raise e).fxInt = s.fxInt := rfl
@[simp] theorem State.raise_fxIn (s : State) (e : ErrCode) : (s.raise e).fxIn = s.fxIn := rfl
@[simp] theorem State.raise_fxOut (s : State) (e : ErrCode) : (s.raise e).fxOut = s.fxOut := rfl
@[simp] theorem State.raise_pending (s : State) (e : ErrCode) : (s.raise e).pending = s.pending := rfl
@[simp] theorem State.raise_returned (s : State) (e : ErrCode) : (s.raise e).returned = s.returned := rfl

@[simp] theorem State.succeed_frame (s : State) : s.succeed.frame = s.frame := rfl
@[simp] theorem State.succeed_rxlen (s : State) : s.succeed.rxlen = s.rxlen := rfl
@[simp] theorem State.succeed_plen (s : State) : s.succeed.plen = s.plen := rfl
@[simp] theorem State.succeed_addr (s : State) : s.succeed.addr = s.addr := rfl
@[simp] theorem State.succeed_cmd (s : State) : s.succeed.cmd = s.cmd := rfl
@[simp] theorem State.succeed_csum (s : State) : s.succeed.csum = s.csum := rfl
@[simp] theorem State.succeed_err (s : State) : s.succeed.err = 0#3 := rfl
@[simp] theorem State.succeed_valid (s : State) : s.succeed.valid = s.valid := rfl
@[simp] theorem State.succeed_errseen (s : State) : s.succeed.errseen = s.errseen := rfl
@[simp] theorem State.succeed_fxLen (s : State) : s.succeed.fxLen = s.fxLen := rfl
@[simp] theorem State.succeed_fxBytes (s : State) : s.succeed.fxBytes = s.fxBytes := rfl
@[simp] theorem State.succeed_fxInt (s : State) : s.succeed.fxInt = s.fxInt := rfl
@[simp] theorem State.succeed_fxIn (s : State) : s.succeed.fxIn = s.fxIn := rfl
@[simp] theorem State.succeed_fxOut (s : State) : s.succeed.fxOut = s.fxOut := rfl
@[simp] theorem State.succeed_pending (s : State) : s.succeed.pending = s.pending := rfl
@[simp] theorem State.succeed_returned (s : State) : s.succeed.returned = s.returned := rfl

@[simp] theorem State.setValid_frame (s : State) (v : Bool) : (s.setValid v).frame = s.frame := rfl
@[simp] theorem State.setValid_rxlen (s : State) (v : Bool) : (s.setValid v).rxlen = s.rxlen := rfl
@[simp] theorem State.setValid_plen (s : State) (v : Bool) : (s.setValid v).plen = s.plen := rfl
@[simp] theorem State.setValid_addr (s : State) (v : Bool) : (s.setValid v).addr = s.addr := rfl
@[simp] theorem State.setValid_cmd (s : State) (v : Bool) : (s.setValid v).cmd = s.cmd := rfl
@[simp] theorem State.setValid_csum (s : State) (v : Bool) : (s.setValid v).csum = s.csum := rfl
@[simp] theorem State.setValid_err (s : State) (v : Bool) : (s.setValid v).err = s.err := rfl
@[simp] theorem State.setValid_valid (s : State) (v : Bool) : (s.setValid v).valid = v := rfl
@[simp] theorem State.setValid_errseen (s : State) (v : Bool) : (s.setValid v).errseen = s.errseen := rfl
@[simp] theorem State.setValid_fxLen (s : State) (v : Bool) : (s.setValid v).fxLen = s.fxLen := rfl
@[simp] theorem State.setValid_fxBytes (s : State) (v : Bool) : (s.setValid v).fxBytes = s.fxBytes := rfl
@[simp] theorem State.setValid_fxInt (s : State) (v : Bool) : (s.setValid v).fxInt = s.fxInt := rfl
@[simp] theorem State.setValid_fxIn (s : State) (v : Bool) : (s.setValid v).fxIn = s.fxIn := rfl
@[simp] theorem State.setValid_fxOut (s : State) (v : Bool) : (s.setValid v).fxOut = s.fxOut := rfl
@[simp] theorem State.setValid_pending (s : State) (v : Bool) : (s.setValid v).pending = s.pending := rfl
@[simp] theorem State.setValid_returned (s : State) (v : Bool) : (s.setValid v).returned = s.returned := rfl

@[simp] theorem State.setPending_frame (s : State) (es : List HostEvent) : (s.setPending es).frame = s.frame := rfl
@[simp] theorem State.setPending_rxlen (s : State) (es : List HostEvent) : (s.setPending es).rxlen = s.rxlen := rfl
@[simp] theorem State.setPending_plen (s : State) (es : List HostEvent) : (s.setPending es).plen = s.plen := rfl
@[simp] theorem State.setPending_addr (s : State) (es : List HostEvent) : (s.setPending es).addr = s.addr := rfl
@[simp] theorem State.setPending_cmd (s : State) (es : List HostEvent) : (s.setPending es).cmd = s.cmd := rfl
@[simp] theorem State.setPending_csum (s : State) (es : List HostEvent) : (s.setPending es).csum = s.csum := rfl
@[simp] theorem State.setPending_err (s : State) (es : List HostEvent) : (s.setPending es).err = s.err := rfl
@[simp] theorem State.setPending_valid (s : State) (es : List HostEvent) : (s.setPending es).valid = s.valid := rfl
@[simp] theorem State.setPending_errseen (s : State) (es : List HostEvent) : (s.setPending es).errseen = s.errseen := rfl
@[simp] theorem State.setPending_fxLen (s : State) (es : List HostEvent) : (s.setPending es).fxLen = s.fxLen := rfl
@[simp] theorem State.setPending_fxBytes (s : State) (es : List HostEvent) : (s.setPending es).fxBytes = s.fxBytes := rfl
@[simp] theorem State.setPending_fxInt (s : State) (es : List HostEvent) : (s.setPending es).fxInt = s.fxInt := rfl
@[simp] theorem State.setPending_fxIn (s : State) (es : List HostEvent) : (s.setPending es).fxIn = s.fxIn := rfl
@[simp] theorem State.setPending_fxOut (s : State) (es : List HostEvent) : (s.setPending es).fxOut = s.fxOut := rfl
@[simp] theorem State.setPending_pending (s : State) (es : List HostEvent) : (s.setPending es).pending = es := rfl
@[simp] theorem State.setPending_returned (s : State) (es : List HostEvent) : (s.setPending es).returned = s.returned := rfl

@[simp] theorem State.giveByte_frame (s : State) (b : Byte) : (s.giveByte b).frame = s.frame := rfl
@[simp] theorem State.giveByte_rxlen (s : State) (b : Byte) : (s.giveByte b).rxlen = s.rxlen := rfl
@[simp] theorem State.giveByte_plen (s : State) (b : Byte) : (s.giveByte b).plen = s.plen := rfl
@[simp] theorem State.giveByte_addr (s : State) (b : Byte) : (s.giveByte b).addr = s.addr := rfl
@[simp] theorem State.giveByte_cmd (s : State) (b : Byte) : (s.giveByte b).cmd = s.cmd := rfl
@[simp] theorem State.giveByte_csum (s : State) (b : Byte) : (s.giveByte b).csum = s.csum := rfl
@[simp] theorem State.giveByte_err (s : State) (b : Byte) : (s.giveByte b).err = s.err := rfl
@[simp] theorem State.giveByte_valid (s : State) (b : Byte) : (s.giveByte b).valid = s.valid := rfl
@[simp] theorem State.giveByte_errseen (s : State) (b : Byte) : (s.giveByte b).errseen = s.errseen := rfl
@[simp] theorem State.giveByte_fxLen (s : State) (b : Byte) : (s.giveByte b).fxLen = s.fxLen := rfl
@[simp] theorem State.giveByte_fxBytes (s : State) (b : Byte) : (s.giveByte b).fxBytes = s.fxBytes := rfl
@[simp] theorem State.giveByte_fxInt (s : State) (b : Byte) : (s.giveByte b).fxInt = s.fxInt := rfl
@[simp] theorem State.giveByte_fxIn (s : State) (b : Byte) : (s.giveByte b).fxIn = s.fxIn := rfl
@[simp] theorem State.giveByte_fxOut (s : State) (b : Byte) : (s.giveByte b).fxOut = s.fxOut := rfl
@[simp] theorem State.giveByte_pending (s : State) (b : Byte) : (s.giveByte b).pending = s.pending := rfl
@[simp] theorem State.giveByte_returned (s : State) (b : Byte) : (s.giveByte b).returned = s.returned ++ [b] := rfl

end Sys2Proof.Machine
end

