-- ==== Sys2Proof/Laws/Ops.lean ====
section
/-! SUPPORT. One lemma per shared operation, saying everything it can do. -/

namespace Sys2Proof.Machine

@[simp] theorem noError_code : ErrCode.noError.code = 0#3 := rfl

theorem ErrCode.code_ne_seven (e : ErrCode) : e.code ≠ 7#3 := by cases e <;> decide

theorem ErrCode.code_eq_zero {e : ErrCode} : e.code = 0#3 ↔ e = .noError := by cases e <;> decide

/-- The bytes of the frame FENC leaves (R170). -/
theorem frameByte_buildFrame (f : Frame) (addr cmd : Byte) (plen : Nat) {k : Nat} (hk : k < 25) :
    frameByte (buildFrame f addr cmd plen) k =
      if k = 0 then 0xAA#8 else if k = 1 then addr else if k = 2 then cmd
      else if k < 3 + plen then frameByte f k else 0#8 := by
  unfold buildFrame
  rw [frameByte_set_ne _ (by simp only [Config.csumOfs]; omega), frameByte_ofFn_lt _ (by omega)]
  rfl

/-- FENC's frame is checksum-valid (R119, R153, R170). -/
theorem frameByte_buildFrame_last (f : Frame) (addr cmd : Byte) (plen : Nat) :
    frameByte (buildFrame f addr cmd plen) 25 = checksum (buildFrame f addr cmd plen) := by
  unfold buildFrame
  rw [show Config.csumOfs = 25 from rfl, frameByte_set_self _ (by decide), checksum_set_last]

/-- FENC with a given command code: `ENCODING` and nothing else, or the frame, its checksum and `VALID` cleared (R170). -/
theorem fencWith_cases (cmd : Byte) (s : State) :
    (22 < s.plen.toNat ∧ fencWith cmd s = s.raise .encoding) ∨
    (s.plen.toNat ≤ 22 ∧ fencWith cmd s =
      { s with
        frame := buildFrame s.frame s.addr cmd s.plen.toNat
        csum := checksum (buildFrame s.frame s.addr cmd s.plen.toNat)
        valid := false
        err := 0#3 }) := by
  by_cases h : 22 < s.plen.toNat
  · exact .inl ⟨h, by simp [fencWith, Config.payloadMax, h]⟩
  · refine .inr ⟨by omega, ?_⟩
    simp [fencWith, Config.payloadMax, h, State.succeed, Config.csumOfs, frameByte_buildFrame_last]

/-- FVER: `CSUM` always, then one of the three errors or success (R175, R285). -/
theorem verifyFrame_cases (s : State) :
    (26 < s.rxlen.toNat ∧ verifyFrame s =
      { s with csum := checksum s.frame, valid := false, err := 4#3, errseen := true }) ∨
    (s.rxlen.toNat < 26 ∧ verifyFrame s =
      { s with csum := checksum s.frame, valid := false, err := 2#3, errseen := true }) ∨
    (s.rxlen.toNat = 26 ∧ frameByte s.frame 25 ≠ checksum s.frame ∧ verifyFrame s =
      { s with csum := checksum s.frame, valid := false, err := 2#3, errseen := true }) ∨
    (s.rxlen.toNat = 26 ∧ frameByte s.frame 25 = checksum s.frame ∧ verifyFrame s =
      { s with csum := checksum s.frame, valid := true, err := 0#3 }) := by
  rcases Nat.lt_trichotomy s.rxlen.toNat 26 with h | h | h
  · exact .inr (.inl ⟨h, by
      simp [verifyFrame, Config.frameLen, h, Nat.lt_asymm h, State.raise, State.setValid, ErrCode.code]⟩)
  · by_cases hc : frameByte s.frame 25 = checksum s.frame
    · exact .inr (.inr (.inr ⟨h, hc, by
        simp [verifyFrame, Config.frameLen, Config.csumOfs, h, hc, State.succeed, State.setValid]⟩))
    · exact .inr (.inr (.inl ⟨h, hc, by
        simp [verifyFrame, Config.frameLen, Config.csumOfs, h, hc, State.raise, State.setValid, ErrCode.code]⟩))
  · exact .inl ⟨h, by simp [verifyFrame, Config.frameLen, h, State.raise, State.setValid, ErrCode.code]⟩

/-- FXDEC: `LENGTH` and nothing else, or the integer and its decimal (R222). -/
theorem decodeFixed_cases (s : State) :
    (4 < s.fxLen.toNat ∧ decodeFixed s = s.raise .length) ∨
    (s.fxLen.toNat ≤ 4 ∧ decodeFixed s =
      { s with
        fxInt := BitVec.ofNat 32 (littleEndianSum s.fxBytes s.fxLen.toNat)
        fxOut := f64DivNat (littleEndianSum s.fxBytes s.fxLen.toNat) 1000
        err := 0#3 }) := by
  by_cases h : 4 < s.fxLen.toNat
  · exact .inl ⟨h, by simp [decodeFixed, Config.fxdecMaxLen, h]⟩
  · refine .inr ⟨by omega, ?_⟩
    simp [decodeFixed, Config.fxdecMaxLen, h, setDecoded, State.succeed, Config.scale, Config.precision]

/-- FXENC: `RANGE` and nothing else, or the integer, its four bytes and the length 4 (R220). -/
theorem encodeFixed_cases (s : State) :
    encodeFixed s = s.raise .range ∨
    (f64IsNaN s.fxIn = false ∧ f64IsInf s.fxIn = false ∧ f64IsInf (f64MulNat s.fxIn 1000) = false ∧
      0 ≤ f64Trunc (f64MulNat s.fxIn 1000) ∧ f64Trunc (f64MulNat s.fxIn 1000) ≤ 2 ^ 32 - 1 ∧
      encodeFixed s =
        { s with
          fxInt := BitVec.ofNat 32 (f64Trunc (f64MulNat s.fxIn 1000)).toNat
          fxBytes := littleEndianBytes (BitVec.ofNat 32 (f64Trunc (f64MulNat s.fxIn 1000)).toNat)
          fxLen := 4#8
          err := 0#3 }) := by
  unfold encodeFixed
  split
  · exact .inl rfl
  · rename_i h₁
    simp only [Bool.or_eq_true, not_or, Bool.not_eq_true] at h₁
    dsimp only
    split
    · exact .inl rfl
    · rename_i h₂
      split
      · exact .inl rfl
      · rename_i h₃
        have hs : Config.scale = 1000 := by decide
        have hm : (Config.fxMax : Int) = 2 ^ 32 - 1 := by decide
        rw [hs, hm] at h₃
        rw [hs] at h₂
        refine .inr ⟨h₁.1, h₁.2, by simpa using h₂, by omega, by omega, ?_⟩
        simp [State.succeed, hs, Config.fxWidth]

/-- TFIELD on a legal field: `NOT_VALID` and nothing else, or the field's bytes, length, integer and decimal (R223). -/
theorem extractField_cases (field : Config.TelemetryField) (s : State) :
    (s.valid = false ∧ extractField field s = s.raise .notValid) ∨
    (s.valid = true ∧ ∃ bs : FxBytes,
      (∀ i < 4, fxByte bs i = if i < (Config.telemetrySlice field).2
        then frameByte s.frame ((Config.telemetrySlice field).1 + i) else 0#8) ∧
      extractField field s =
        { s with
          fxBytes := bs
          fxLen := BitVec.ofNat 8 (Config.telemetrySlice field).2
          fxInt := BitVec.ofNat 32 (littleEndianSum bs (Config.telemetrySlice field).2)
          fxOut := f64DivNat (littleEndianSum bs (Config.telemetrySlice field).2) 1000
          err := 0#3 }) := by
  by_cases h : s.valid = true
  · refine .inr ⟨h, Vector.ofFn fun i => if i.val < (Config.telemetrySlice field).2
      then frameByte s.frame ((Config.telemetrySlice field).1 + i.val) else 0#8, ?_, ?_⟩
    · intro i hi
      rw [fxByte_ofFn_lt _ hi]
    · simp [extractField, h, setDecoded, State.succeed, Config.scale, Config.precision]
  · exact .inl ⟨by simpa using h, by simp [extractField, h]⟩

/-- Reset replaces the registers and keeps the host's side of the port (R320, R321). -/
@[simp] theorem busStore_pending (s : State) (a d : Byte) : (busStore s a d).pending = s.pending := by
  unfold busStore; dsimp only; (repeat' split) <;> rfl

@[simp] theorem busStore_returned (s : State) (a d : Byte) : (busStore s a d).returned = s.returned := by
  unfold busStore; dsimp only; (repeat' split) <;> rfl

@[simp] theorem busStore_err (s : State) (a d : Byte) : (busStore s a d).err = s.err := by
  unfold busStore; dsimp only; (repeat' split) <;> rfl

@[simp] theorem busStore_errseen (s : State) (a d : Byte) : (busStore s a d).errseen = s.errseen := by
  unfold busStore; dsimp only; (repeat' split) <;> rfl

/-- `VALID` after a WR (R263). -/
theorem busStore_valid (s : State) (a d : Byte) :
    (busStore s a d).valid = if a.toNat ≤ 0x1A then false else s.valid := by
  unfold busStore
  dsimp only
  repeat' split
  all_goals first | rfl | omega

end Sys2Proof.Machine
end

