-- ==== Sys2Proof/Laws/PerInstr.lean ====
section
/-! SUPPORT. Per-instruction laws: the canonical word of every instruction has the fixed bits of its table row, and zeros
wherever the row fixes none (spec/30_encoding.md R102, R111, R112). -/

namespace Sys2Proof.Laws.RowEncoding

open Sys2Proof Sys2Proof.Machine

/-- The encoder agrees with the opcode table on the row of `i`. -/
def Statement (i : Instr) : Prop :=
  encode i &&& rowMask i = rowMatch i ∧ encode i &&& ~~~ rowMask i = 0#17

theorem mkWord_toNat (we : Bool) (a d : Byte) :
    (mkWord we a d).toNat = we.toNat * 0x10000 + a.toNat * 0x100 + d.toNat := by
  have h1 : (a ++ d).toNat = a.toNat * 256 + d.toNat := by
    rw [BitVec.toNat_append, ← Nat.shiftLeft_add_eq_or_of_lt d.isLt, Nat.shiftLeft_eq]
  have h2 : (BitVec.ofBool we ++ (a ++ d)).toNat = we.toNat * 65536 + (a.toNat * 256 + d.toNat) := by
    rw [BitVec.toNat_append, ← Nat.shiftLeft_add_eq_or_of_lt (a ++ d).isLt, Nat.shiftLeft_eq, h1]
    cases we <;> rfl
  rw [mkWord, BitVec.toNat_setWidth, h2, Nat.mod_eq_of_lt]
  · omega
  · have ha := a.isLt
    have hd := d.isLt
    have hw : we.toNat ≤ 1 := we.toNat_le
    omega

theorem rd (a : Byte) : Statement (.rd a) := by
  unfold Statement
  revert a
  decide +kernel

theorem wr (a d : Byte) : Statement (.wr a d) := by
  have h : encode (.wr a d) = rowMatch (.wr a d) := by
    apply BitVec.eq_of_toNat_eq
    have ha := a.isLt
    have hd := d.isLt
    simp only [encode, rowMatch, mkWord_toNat, BitVec.toNat_ofNat, Bool.toNat_true]
    omega
  have hm : rowMask (.wr a d) = BitVec.allOnes 17 := rfl
  exact ⟨by rw [hm, BitVec.and_allOnes, h], by rw [hm]; simp⟩

theorem csum : Statement .csum := by unfold Statement; decide
theorem fenc : Statement .fenc := by unfold Statement; decide
theorem fver : Statement .fver := by unfold Statement; decide
theorem fxenc : Statement .fxenc := by unfold Statement; decide
theorem fxdec : Statement .fxdec := by unfold Statement; decide
theorem tfieldCurrent : Statement .tfieldCurrent := by unfold Statement; decide
theorem tfieldVoltage : Statement .tfieldVoltage := by unfold Statement; decide
theorem tfieldMaxCurrent : Statement .tfieldMaxCurrent := by unfold Statement; decide
theorem tfieldMaxVoltage : Statement .tfieldMaxVoltage := by unfold Statement; decide
theorem tfieldVset : Statement .tfieldVset := by unfold Statement; decide
theorem tfieldReserved5 : Statement .tfieldReserved5 := by unfold Statement; decide
theorem tfieldReserved67 : Statement .tfieldReserved67 := by unfold Statement; decide
theorem reservedOp6 : Statement .reservedOp6 := by unfold Statement; decide
theorem reservedOp7 : Statement .reservedOp7 := by unfold Statement; decide
theorem wireRemote : Statement .wireRemote := by unfold Statement; decide
theorem wireOutput : Statement .wireOutput := by unfold Statement; decide
theorem wireSetMaxV : Statement .wireSetMaxV := by unfold Statement; decide
theorem wireSetV : Statement .wireSetV := by unfold Statement; decide
theorem wireSetMaxI : Statement .wireSetMaxI := by unfold Statement; decide
theorem wireRead : Statement .wireRead := by unfold Statement; decide

end Sys2Proof.Laws.RowEncoding
end

