-- ==== Sys2Proof/Laws/Rounding.lean ====
section
/-! SUPPORT. What `divNearestEven` answers: the nearest integer to a quotient, the even one of two. -/

namespace Sys2Proof.Machine

/-- Twice the distance to the quotient is at most one divisor, and an exact tie goes to an even result. -/
theorem divNearestEven_spec (a : Nat) {b : Nat} (hb : 0 < b) :
    2 * a ≤ (2 * divNearestEven a b + 1) * b ∧ 2 * divNearestEven a b * b ≤ 2 * a + b ∧
    (2 * a = (2 * divNearestEven a b + 1) * b ∨ 2 * divNearestEven a b * b = 2 * a + b →
      divNearestEven a b % 2 = 0) := by
  have hd : b * (a / b) + a % b = a := Nat.div_add_mod a b
  have hr : a % b < b := Nat.mod_lt a hb
  generalize a / b = q at hd
  generalize a % b = r at hd hr
  subst hd
  unfold divNearestEven
  have e₁ : (b * q + r) / b = q := by
    rw [Nat.mul_add_div hb, Nat.div_eq_of_lt hr, Nat.add_zero]
  have e₂ : (b * q + r) % b = r := by
    rw [Nat.mul_add_mod, Nat.mod_eq_of_lt hr]
  rw [e₁, e₂]
  have hqb : q * b = b * q := Nat.mul_comm q b
  rcases Nat.lt_trichotomy (2 * r) b with h | h | h
  · rw [if_pos h]
    refine ⟨by nlinarith, by nlinarith, ?_⟩
    rintro (h' | h') <;> nlinarith
  · rw [if_neg (by omega), if_neg (by omega)]
    rcases Nat.mod_two_eq_zero_or_one q with h2 | h2 <;> rw [h2]
    · exact ⟨by nlinarith, by nlinarith, fun _ => h2⟩
    · exact ⟨by nlinarith, by nlinarith, fun _ => by omega⟩
  · rw [if_neg (by omega), if_pos h]
    refine ⟨by nlinarith, by nlinarith, ?_⟩
    rintro (h' | h') <;> nlinarith

/-- An exact quotient is not changed by rounding. -/
theorem divNearestEven_mul (q : Nat) {b : Nat} (hb : 0 < b) : divNearestEven (q * b) b = q := by
  simp [divNearestEven, hb]

/-- The low 63 bits of a packed encoding. -/
theorem f64Pack_toNat {m : Nat} (h : m < 2 ^ 63) (sign : Bool) :
    (f64Pack sign m).toNat = sign.toNat * 2 ^ 63 + m := by
  have h1 : (BitVec.ofBool sign ++ BitVec.ofNat 63 m).toNat = sign.toNat * 2 ^ 63 + m := by
    rw [BitVec.toNat_append, ← Nat.shiftLeft_add_eq_or_of_lt (BitVec.ofNat 63 m).isLt, Nat.shiftLeft_eq,
      BitVec.toNat_ofNat, Nat.mod_eq_of_lt h]
    cases sign <;> rfl
  rw [f64Pack, BitVec.toNat_setWidth, h1, Nat.mod_eq_of_lt]
  have : sign.toNat ≤ 1 := sign.toNat_le
  omega

/-- The sign of a packed encoding. -/
theorem f64Sign_pack {m : Nat} (h : m < 2 ^ 63) (sign : Bool) : f64Sign (f64Pack sign m) = sign := by
  rw [f64Sign, ← BitVec.testBit_toNat, f64Pack_toNat h, Nat.testBit_eq_decide_div_mod_eq]
  cases sign
  · simp only [Bool.toNat_false, decide_eq_false_iff_not]
    omega
  · simp only [Bool.toNat_true, decide_eq_true_eq]
    omega

/-- The exponent field of a packed encoding is what stands above its 52 low bits. -/
theorem f64Exp_pack {m : Nat} (h : m < 2 ^ 63) (sign : Bool) : f64Exp (f64Pack sign m) = m / 2 ^ 52 := by
  rw [f64Exp, BitVec.extractLsb'_toNat, f64Pack_toNat h, Nat.shiftRight_eq_div_pow]
  have : sign.toNat ≤ 1 := sign.toNat_le
  omega

/-- The fraction of a packed encoding is its 52 low bits. -/
theorem f64Frac_pack {m : Nat} (h : m < 2 ^ 63) (sign : Bool) : f64Frac (f64Pack sign m) = m % 2 ^ 52 := by
  rw [f64Frac, BitVec.extractLsb'_toNat, f64Pack_toNat h, Nat.shiftRight_zero]
  omega

/-- The magnitude never exceeds infinity's encoding (R9). -/
theorem f64RoundUnits_le (num den : Nat) : f64RoundUnits num den ≤ f64Infinity := Nat.min_le_right _ _

end Sys2Proof.Machine
end

