-- ==== Sys2Proof/Laws/Step.lean ====
section
/-! SUPPORT. What a meaning and a step can answer: always a next state. -/

namespace Sys2Proof.Machine

theorem performTfield_next (f : BitVec 3) (s : State) : ∃ t, performTfield f s = .next t := by
  unfold performTfield
  split <;> exact ⟨_, rfl⟩

theorem performCtrl_next (c : Byte) (s : State) : ∃ t, performCtrl c s = .next t := by
  unfold performCtrl
  split
  case h_6 => exact performTfield_next _ s
  all_goals exact ⟨_, rfl⟩

theorem execWr_next (a d : Byte) (s : State) : ∃ t, execWr a d s = .next t := by
  unfold execWr
  split
  · exact performCtrl_next d s
  · exact ⟨_, rfl⟩

/-- A command code with a row presents that row, any other code plain FENC. -/
theorem decodeAt_cases (cmd : Byte) (w : BusWord) :
    (decodeAt cmd w = decodeBus w) ∨
    (decodeBus w = .fenc ∧ ∃ i, decodeCommand cmd = some i ∧ decodeAt cmd w = i) := by
  unfold decodeAt
  split
  · rename_i h
    cases hc : decodeCommand cmd with
    | none => exact .inl (by simp [h])
    | some i => exact .inr ⟨h, i, rfl, by simp⟩
  · exact .inl rfl

end Sys2Proof.Machine
end

