-- ==== Sys2Proof/Machine/Assembler.lean ====
section
/-! DEFINITION. The text of host programs (spec/30_encoding.md R134, R135): numbers, register names, lines, comments and
the annotation of an RD line. Notation only (92_eei_decisions.md D26; log entry 14). -/

namespace Sys2Proof.Machine

/-- Why a line is no line of the syntax. -/
inductive SyntaxError
  /-- The first word is no bus word and no pseudo-instruction. -/
  | unknownLine
  /-- A number, register name or operation name is missing or is none of those the syntax has. -/
  | badOperand
  deriving DecidableEq, Repr

/-- A character list without its comment (R134). -/
def dropComment : List Char → List Char
  | [] => []
  | c :: cs => if c = ';' then [] else c :: dropComment cs

/-- The words of a line: blanks end a word, a comma is a word of its own. `acc` is the word being read, last character
first. -/
def wordsFrom (acc : List Char) : List Char → List (List Char)
  | [] => if acc = [] then [] else [acc.reverse]
  | c :: cs =>
    let done := if acc = [] then [] else [acc.reverse]
    if c = ' ' ∨ c = '\t' ∨ c = '\r' then done ++ wordsFrom [] cs
    else if c = ',' then done ++ [','] :: wordsFrom [] cs
    else wordsFrom (c :: acc) cs

/-- The value of a digit below `base`. -/
def digitValue (base : Nat) (c : Char) : Option Nat :=
  let n := c.toNat
  let v := if 48 ≤ n ∧ n ≤ 57 then n - 48 else if 65 ≤ n ∧ n ≤ 70 then n - 55 else if 97 ≤ n ∧ n ≤ 102 then n - 87 else 16
  if v < base then some v else none

/-- The number of a non-empty digit list, most significant digit first. -/
def digitsValue (base acc : Nat) : List Char → Option Nat
  | [] => some acc
  | c :: cs => (digitValue base c).bind fun v => digitsValue base (acc * base + v) cs

/-- A number: hexadecimal after `0x`, else decimal (both forms stand in spec/95_test_vectors.md). -/
def parseNumber : List Char → Option Nat
  | [] => none
  | '0' :: 'x' :: c :: cs => digitsValue 16 0 (c :: cs)
  | c :: cs => digitsValue 10 0 (c :: cs)

/-- A number 0x00..0xFF. -/
def parseByte (w : List Char) : Option Byte :=
  (parseNumber w).bind fun n => if n < 256 then some (BitVec.ofNat 8 n) else none

/-- A number below `n`, as an index. -/
def parseIndex (n : Nat) (w : List Char) : Option (Fin n) :=
  (parseNumber w).bind fun k => if h : k < n then some ⟨k, h⟩ else none

/-- `NAME[i]`: the name, and what stands between the brackets. -/
def splitBracket : List Char → Option (List Char × List Char)
  | [] => none
  | c :: cs =>
    if c = '[' then (if cs.getLast? = some ']' then some ([], cs.dropLast) else none)
    else (splitBracket cs).map fun p => (c :: p.1, p.2)

/-- `NAME+k`: the name, and what follows the plus sign. -/
def splitPlus : List Char → Option (List Char × List Char)
  | [] => none
  | c :: cs => if c = '+' then some ([], cs) else (splitPlus cs).map fun p => (c :: p.1, p.2)

/-- A register name of R71 as R134 writes it; the bare name of a multi-byte register is its first byte (`WRN FX_IN, 8,
<value>` writes `FX_IN+k`, R135). -/
def parseName (w : List Char) : Option RegRef :=
  match splitBracket w, splitPlus w with
  | some (name, i), _ =>
    match String.ofList name with
    | "FRAME" => (parseIndex 26 i).map .frame
    | "FX_BYTES" => (parseIndex 4 i).map .fxBytes
    | _ => none
  | none, some (name, k) =>
    match String.ofList name with
    | "FX_INT" => (parseIndex 4 k).map .fxInt
    | "FX_IN" => (parseIndex 8 k).map .fxIn
    | "FX_OUT" => (parseIndex 8 k).map .fxOut
    | _ => none
  | none, none =>
    match String.ofList w with
    | "RXLEN" => some .rxlen
    | "PLEN" => some .plen
    | "ADDR" => some .addr
    | "CMD" => some .cmd
    | "CSUM" => some .csum
    | "STATUS" => some .status
    | "CTRL" => some .ctrl
    | "REPLY" => some .reply
    | "FX_LEN" => some .fxLen
    | "FX_INT" => some (.fxInt 0)
    | "FX_IN" => some (.fxIn 0)
    | "FX_OUT" => some (.fxOut 0)
    | _ => none

/-- `<addr>`: a number or a register name (R134). -/
def parseAddr (w : List Char) : Option RegRef :=
  match parseByte w with
  | some a => some (.number a)
  | none => parseName w

/-- `<f>` of `OP TFIELD`: a number 0..7 or a field name (R135). -/
def parseField (w : List Char) : Option (BitVec 3) :=
  match String.ofList w with
  | "CURRENT" => some 0#3
  | "VOLTAGE" => some 1#3
  | "MAXCURRENT" => some 2#3
  | "MAXVOLTAGE" => some 3#3
  | "VSET" => some 4#3
  | _ => (parseNumber w).bind fun n => if n < 8 then some (BitVec.ofNat 3 n) else none

/-- What follows `OP` (R135). -/
def parseOp : List (List Char) → Option OpName
  | [w] =>
    match String.ofList w with
    | "CSUM" => some .csum
    | "FENC" => some .fenc
    | "FVER" => some .fver
    | "FXENC" => some .fxenc
    | "FXDEC" => some .fxdec
    | _ => none
  | [w, [','], f] => if String.ofList w = "TFIELD" then (parseField f).map .tfield else none
  | _ => none

/-- `, b0, b1, ...` of a `WRB` line (R135). -/
def parseBytes : List (List Char) → Option (List Byte)
  | [] => some []
  | [','] :: w :: ws => (parseByte w).bind fun b => (parseBytes ws).map (b :: ·)
  | _ => none

/-- The words of an RD line without its annotation `-> <value>`, which is not part of the program (R134). -/
def dropAnnotation (ws : List (List Char)) : List (List Char) := ws.takeWhile (· != ['-', '>'])

/-- A line of a host program; `none` for a blank line or a comment alone (R134, R135). -/
def parseLine (line : List Char) : Except SyntaxError (Option HostLine) :=
  let some? (o : Option HostLine) : Except SyntaxError (Option HostLine) :=
    match o with
    | some l => .ok (some l)
    | none => .error .badOperand
  match wordsFrom [] (dropComment line) with
  | [] => .ok none
  | w :: ws =>
    match String.ofList w with
    | "RD" => some? (match dropAnnotation ws with
        | [a] => (parseAddr a).map .rd
        | _ => none)
    | "WR" => some? (match ws with
        | [a, [','], b] => (parseAddr a).bind fun r => (parseByte b).map (.wr r)
        | _ => none)
    | "OP" => some? ((parseOp ws).map .op)
    | "WRN" => some? (match ws with
        | [a, [','], n, [','], v] =>
          (parseAddr a).bind fun r => (parseNumber n).bind fun n => (parseNumber v).map (.wrn r n)
        | _ => none)
    | "RDN" => some? (match ws with
        | [a, [','], n] => (parseAddr a).bind fun r => (parseNumber n).map (.rdn r)
        | _ => none)
    | "WRB" => some? (match ws with
        | a :: b :: bs => (parseAddr a).bind fun r => (parseBytes (b :: bs)).map (.wrb r)
        | _ => none)
    | _ => .error .unknownLine

/-- A host program: one line of text per element, blank lines left out. -/
def parseProgram : List String → Except SyntaxError (List HostLine)
  | [] => .ok []
  | l :: ls =>
    match parseLine l.toList, parseProgram ls with
    | .error e, _ => .error e
    | .ok _, .error e => .error e
    | .ok none, .ok p => .ok p
    | .ok (some x), .ok p => .ok (x :: p)

end Sys2Proof.Machine
end

