-- ==== Sys2Proof/Tests/Slice0.lean ====
section
/-! SUPPORT. The model's own tests: decoding of words written out from spec/30_encoding.md, one step of each instruction on
vectors of spec/95_test_vectors.md, and a witness for the hypotheses of each statement. -/

namespace Sys2Proof.Tests

open Sys2Proof Sys2Proof.Machine

/-- A frame buffer from its first bytes, the rest zero. -/
def frameOf (l : List Byte) : Frame := Vector.ofFn fun i => l.getD i.val 0#8

/-- The SUCCESS status reply of V20, verified. -/
def verifiedReply : State :=
  { State.reset with
    frame := (frameOf [0xAA, 0, 0, 0x12, 0x80]).setIfInBounds 25 0x3C#8
    rxlen := 26#8, csum := 0x3C#8, valid := true }

/-- The telemetry reply of program P3, verified. -/
def verifiedTelemetry : State :=
  { State.reset with
    frame := frameOf [0xAA, 0x00, 0x26, 0xD2, 0x04, 0x39, 0x30, 0x00, 0x00, 0x01, 0xB8, 0x0B, 0x30, 0x75, 0x00, 0x00,
      0xE0, 0x2E, 0x00, 0x00, 0x00, 0x00, 0x00, 0x00, 0x00, 0x86]
    rxlen := 26#8, csum := 0x86#8, valid := true }

/-- The next state of a meaning, or the state itself. -/
def after (i : Instr) (s : State) : State :=
  match exec i s with
  | .next t => t
  | .fault _ => s
  | .refused _ => s

/-! ## Well-formedness -/

/-- R110: a WR to `CTRL` is not a plain WR. -/
theorem test_wellFormed_refuses_wr_to_ctrl : (Instr.wr 0x20#8 0x01#8).wellFormed = false := by decide

/-! ## Decoding (R101-R113, R121) -/

theorem test_decode_rd : decodeBus 0b0_00100001_10101010#17 = .rd 0x21#8 := by decide
theorem test_decode_wr : decodeBus 0b1_00011010_00011010#17 = .wr 0x1A#8 0x1A#8 := by decide
theorem test_decode_csum : decodeBus 0b1_00100000_11111_000#17 = .csum := by decide
theorem test_decode_fenc : decodeBus 0b1_00100000_01010_001#17 = .fenc := by decide
theorem test_decode_fver : decodeBus 0b1_00100000_00000_010#17 = .fver := by decide
theorem test_decode_fxenc : decodeBus 0b1_00100000_00000_011#17 = .fxenc := by decide
theorem test_decode_fxdec : decodeBus 0b1_00100000_00000_100#17 = .fxdec := by decide
/-- V95: bits 7 and 3 are ignored. -/
theorem test_decode_tfieldCurrent : decodeBus 0b1_00100000_1_000_1_101#17 = .tfieldCurrent := by decide
theorem test_decode_tfieldVoltage : decodeBus 0b1_00100000_0_001_0_101#17 = .tfieldVoltage := by decide
theorem test_decode_tfieldMaxCurrent : decodeBus 0b1_00100000_0_010_0_101#17 = .tfieldMaxCurrent := by decide
theorem test_decode_tfieldMaxVoltage : decodeBus 0b1_00100000_0_011_0_101#17 = .tfieldMaxVoltage := by decide
theorem test_decode_tfieldVset : decodeBus 0b1_00100000_0_100_0_101#17 = .tfieldVset := by decide
theorem test_decode_tfieldReserved5 : decodeBus 0b1_00100000_0_101_0_101#17 = .tfieldReserved5 := by decide
theorem test_decode_tfieldReserved6 : decodeBus 0b1_00100000_0_110_0_101#17 = .tfieldReserved67 := by decide
theorem test_decode_tfieldReserved7 : decodeBus 0b1_00100000_0_111_0_101#17 = .tfieldReserved67 := by decide
theorem test_decode_reservedOp6 : decodeBus 0b1_00100000_00000_110#17 = .reservedOp6 := by decide
theorem test_decode_reservedOp7 : decodeBus 0b1_00100000_11111_111#17 = .reservedOp7 := by decide
theorem test_decode_wireRemote : decodeAt 0b00100000#8 0b1_00100000_00000_001#17 = .wireRemote := by decide
theorem test_decode_wireOutput : decodeAt 0b00100001#8 0b1_00100000_00000_001#17 = .wireOutput := by decide
theorem test_decode_wireSetMaxV : decodeAt 0b00100010#8 0b1_00100000_00000_001#17 = .wireSetMaxV := by decide
theorem test_decode_wireSetV : decodeAt 0b00100011#8 0b1_00100000_00000_001#17 = .wireSetV := by decide
theorem test_decode_wireSetMaxI : decodeAt 0b00100100#8 0b1_00100000_00000_001#17 = .wireSetMaxI := by decide
theorem test_decode_wireRead : decodeAt 0b00100110#8 0b1_00100000_00000_001#17 = .wireRead := by decide
/-- 0x25 has no row: FENC carries it without a name (R128). -/
theorem test_decode_fenc_other_code : decodeAt 0x25#8 0x12001#17 = .fenc := by decide
theorem test_decodeBytes_rejects_bit17 : decodeBytes [0#8, 0#8, 2#8] = .error .notABusWord := by rfl
theorem test_decodeBytes_rejects_length : decodeBytes [0#8, 0#8] = .error .noSuchLength := by rfl
theorem test_decodeTableWord_ctrl : decodeTableWord 8 0x45 = some .tfieldVset := by decide
theorem test_decodeTableWord_wire : decodeTableWord 8 0x26 = some .wireRead := by decide
theorem test_decodeTableWord_wr : decodeTableWord 24 0x10000 = some (.wr 0#8 0#8) := by decide

/-! ## One step of each instruction -/

/-- V101, and the worked example of R260: `RD STATUS` after a successful FVER. -/
theorem test_rd_status : (after (.rd 0x1F#8) verifiedReply).returned = [0x10#8] := by decide
theorem test_rd_reply : (after (.rd 0x21#8) verifiedTelemetry).returned = [0x82#8] := by decide
/-- V108. -/
theorem test_wr_fxIn : (after (.wr 0x36#8 0x14#8) { State.reset with fxIn := 0x40FF000000000000#64 }).fxIn
    = 0x4014000000000000#64 := by decide
/-- V34. -/
theorem test_wr_frame_clears_valid : statusByte (after (.wr 0x07#8 0#8) verifiedReply) = 0x00#8 := by decide
/-- V3: 25 bytes 0xFF. -/
theorem test_csum_wraps : (after .csum { State.reset with frame := Vector.replicate 26 0xFF#8 }).csum = 0xE7#8 := by decide
/-- V7: `ERRSEEN` stays. -/
theorem test_csum_keeps_errseen : statusByte (after .csum { State.reset with err := 3#3, errseen := true }) = 0x80#8 := by
  decide
/-- V16: zero fill over stale bytes. -/
theorem test_fenc_zero_fills : (after .fenc { State.reset with
      frame := Vector.replicate 26 0x77#8, plen := 1#8, cmd := 0x20#8 }).frame
    = (frameOf [0xAA, 0x00, 0x20, 0x77]).setIfInBounds 25 0x41#8 := by decide
/-- V17. -/
theorem test_fenc_too_long : after .fenc { State.reset with plen := 0x17#8 }
    = { State.reset with plen := 0x17#8, err := 1#3, errseen := true } := by decide
/-- V26. -/
theorem test_fver_mismatch : let t := after .fver { verifiedReply with frame := verifiedReply.frame.setIfInBounds 25 0x3D#8 }
    statusByte t = 0x82#8 ∧ t.csum = 0x3C#8 := by decide
/-- V29. -/
theorem test_fver_length : statusByte (after .fver { verifiedReply with rxlen := 27#8 }) = 0x84#8 := by decide
/-- V47: the rounded product stays below 1001. -/
theorem test_fxenc_1_001 : (after .fxenc { State.reset with fxIn := 0x3FF004189374BC6A#64 }).fxBytes
    = #v[0xE8#8, 0x03#8, 0x00#8, 0x00#8] := by decide +kernel
/-- V56: the first rejected input. -/
theorem test_fxenc_range : statusByte (after .fxenc { State.reset with fxIn := 0x4150624DD2F1A9FC#64 }) = 0x83#8 := by
  decide +kernel
/-- V78. -/
theorem test_fxdec_max : (after .fxdec { State.reset with fxLen := 4#8, fxBytes := Vector.replicate 4 0xFF#8 }).fxOut
    = 0x4150624DD2E147AE#64 := by decide +kernel
/-- V75: byte 3 ignored. -/
theorem test_fxdec_three : (after .fxdec { State.reset with fxLen := 3#8, fxBytes := #v[1#8, 2#8, 3#8, 0xFF#8] }).fxOut
    = 0x4068A3DF3B645A1D#64 := by decide +kernel
/-- V90. -/
theorem test_tfieldCurrent : let t := after .tfieldCurrent verifiedTelemetry
    t.fxBytes = #v[0xD2#8, 0x04#8, 0#8, 0#8] ∧ t.fxLen = 2#8 ∧ t.fxOut = 0x3FF3BE76C8B43958#64 := by decide +kernel
/-- V98. -/
theorem test_tfieldCurrent_not_valid : statusByte (after .tfieldCurrent State.reset) = 0x85#8 := by decide
/-- V91. -/
theorem test_tfieldVoltage : let t := after .tfieldVoltage verifiedTelemetry
    t.fxInt = 12345#32 ∧ t.fxOut = 0x4028B0A3D70A3D71#64 := by decide +kernel
/-- V92. -/
theorem test_tfieldMaxCurrent : let t := after .tfieldMaxCurrent verifiedTelemetry
    t.fxInt = 3000#32 ∧ t.fxLen = 2#8 ∧ t.fxOut = 0x4008000000000000#64 := by decide +kernel
/-- V93. -/
theorem test_tfieldMaxVoltage : let t := after .tfieldMaxVoltage verifiedTelemetry
    t.fxInt = 30000#32 ∧ t.fxOut = 0x403E000000000000#64 := by decide +kernel
/-- V94. -/
theorem test_tfieldVset : let t := after .tfieldVset verifiedTelemetry
    t.fxInt = 12000#32 ∧ t.fxOut = 0x4028000000000000#64 := by decide +kernel
/-- V96. -/
theorem test_tfieldReserved5 : statusByte (after .tfieldReserved5 verifiedTelemetry) = 0x96#8 := by decide
/-- V97: the encoding check comes before the `VALID` check. -/
theorem test_tfieldReserved67 : statusByte (after .tfieldReserved67 State.reset) = 0x86#8 := by decide
/-- V106. -/
theorem test_reservedOp6 : after .reservedOp6 verifiedReply = { verifiedReply with err := 6#3, errseen := true } := by decide
theorem test_reservedOp7 : after .reservedOp7 verifiedReply = { verifiedReply with err := 6#3, errseen := true } := by decide
/-- V12. -/
theorem test_wireRemote : (after .wireRemote { State.reset with frame := frameOf [0, 0, 0, 1], plen := 1#8 }).frame
    = (frameOf [0xAA, 0x00, 0x20, 0x01]).setIfInBounds 25 0xCB#8 := by decide
/-- V13. -/
theorem test_wireOutput : (after .wireOutput { State.reset with frame := frameOf [0, 0, 0, 1], plen := 1#8 }).frame
    = (frameOf [0xAA, 0x00, 0x21, 0x01]).setIfInBounds 25 0xCC#8 := by decide
/-- V15. -/
theorem test_wireSetMaxV : (after .wireSetMaxV { State.reset with frame := Vector.replicate 26 0xFF#8, plen := 22#8 }).csum
    = 0xB6#8 := by decide
/-- V11. -/
theorem test_wireSetV : (after .wireSetV { State.reset with
      frame := frameOf [0, 0, 0, 0x88, 0x13], plen := 4#8, addr := 5#8 }).frame
    = (frameOf [0xAA, 0x05, 0x23, 0x88, 0x13]).setIfInBounds 25 0x6D#8 := by decide
/-- 0xAA + 0x24 + 0x88 + 0x13 = 0x169 (R126, R150). -/
theorem test_wireSetMaxI : (after .wireSetMaxI { State.reset with
      frame := frameOf [0, 0, 0, 0x88, 0x13], plen := 4#8 }).csum = 0x69#8 := by decide
/-- V14 and V19: any staged bytes, `VALID` cleared. -/
theorem test_wireRead : let t := after .wireRead verifiedReply
    t.frame = (frameOf [0xAA, 0x00, 0x26]).setIfInBounds 25 0xD0#8 ∧ statusByte t = 0x00#8 := by decide

/-! ## The step -/

/-- The state after one step, or the state itself. -/
def stepped (s : State) : State :=
  match step s with
  | .next t => t
  | .fault _ => s
  | .refused _ => s

/-- R321: a read in a step of reset returns 0x00, and the registers are reset. -/
theorem test_step_reset_wins : stepped { verifiedReply with pending := [.reset (some 0x00000#17)] }
    = { State.reset with returned := [0x00#8] } := by decide
/-- The word placed by `withFetchWord` is what the next step runs (V14's frame by a command-code word). -/
theorem test_step_runs_fetch_word : (stepped (State.reset.withFetchWord 8 0x26)).csum = 0xD0#8 := by decide
/-- R322: with no access pending the block waits. -/
theorem test_step_idle : stepped verifiedReply = verifiedReply := by decide

/-! ## Witnesses: states and operands that meet the hypotheses of each statement -/

/-- `s` with these events pending. -/
def presenting (s : State) (es : List HostEvent) : State := { s with pending := es }

/-- R134, R135: comments, blank lines, decimal and hexadecimal numbers, names. -/
theorem test_text_lines : parseProgram ["; P1", "WR RXLEN, 26", "", "WRN FX_INT+1, 1, 0x40", "OP TFIELD, VSET"]
    = .ok [.wr .rxlen 26#8, .wrn (.fxInt 1) 1 0x40, .op (.tfield 4#3)] := by decide +kernel
/-- R135, with the words of R101 written out. -/
theorem test_text_expands :
    (State.reset.load [.wr .plen 0x04#8, .rdn (.fxBytes 0) 2, .op .fenc]).pending
      = [.access 0x11B04#17, .access 0x02400#17, .access 0x02500#17, .access 0x12001#17] := by decide

theorem witness_StepPerformsTheNextHostAccess :
    (presenting State.reset [.access 0x01F00#17]).pending = .access 0x01F00#17 :: [] ∧ State.reset.pending = [] := by
  decide

theorem witness_RdAndWrWordsCarryTheirFields : (0x1F#8 : Byte) ≠ 0x20#8 ∧ (0x21#8 : Byte) ≠ 0x20#8 := by decide

theorem witness_EveryBusWordFitsExactlyItsDecodedRow :
    (Instr.wr 0x21#8 0xFF#8).wellFormed = true ∧ isWireRow (.wr 0x21#8 0xFF#8) = false ∧
    Instr.tfieldVset.wellFormed = true ∧ isWireRow .tfieldVset = false := by decide

theorem witness_DecodeOfEncodeIsTheInstruction :
    (Instr.wr 0xFF#8 0xFF#8).wellFormed = true ∧ (Instr.wr 0xFF#8 0xFF#8).presentedWith 0x20#8 = true ∧
    Instr.fenc.presentedWith 0x25#8 = true ∧ Instr.wireRead.presentedWith 0x26#8 = true := by decide

theorem witness_CtrlDontCareBitsAndReservedEncodings :
    ((0xF8#8 : Byte).extractLsb' 0 3 = (0x00#8 : Byte).extractLsb' 0 3 ∧ (0xF8#8 : Byte).extractLsb' 0 3 ≠ 5#3) ∧
    ((0x8D#8 : Byte).extractLsb' 0 3 = 5#3 ∧ (0x8D#8 : Byte).extractLsb' 4 3 = (0x05#8 : Byte).extractLsb' 4 3) ∧
    (0x06#8 : Byte).extractLsb' 0 3 = 6#3 ∧ (0xFF#8 : Byte).extractLsb' 0 3 = 7#3 ∧
    ((0x55#8 : Byte).extractLsb' 0 3 = 5#3 ∧ 5 ≤ ((0x55#8 : Byte).extractLsb' 4 3).toNat) ∧
    ((0x75#8 : Byte).extractLsb' 0 3 = 5#3 ∧ 5 ≤ ((0x75#8 : Byte).extractLsb' 4 3).toNat) := by decide

theorem witness_CommandCodesHaveNoMeaningOfTheirOwn :
    let s := presenting { State.reset with cmd := 0x26#8, plen := 22#8 } [.access 0x12001#17]
    s.pending = .access 0x12001#17 :: [] ∧ decodeBus 0x12001#17 = .fenc ∧ s.plen.toNat ≤ 22 := by decide

theorem witness_EveryStepKeepsTheInvariant :
    (presenting verifiedReply [.access 0x11B17#17]).Inv ∧
    ∃ t, step (presenting verifiedReply [.access 0x11B17#17]) = .next t :=
  ⟨⟨by decide, by decide, by decide, by decide⟩, _, rfl⟩

theorem witness_TheBlockNeverHangsAndErrseenIsTheRunsRecord :
    ∃ t : State, Host.Core.run Sys2Proof.core 1 (presenting State.reset [.access 0x12000#17]) = .next t ∧
      t.errseen = false ∧
      ∀ e ∈ (presenting State.reset [.access 0x12000#17]).pending.take 1, isResetEvent e = false :=
  ⟨_, rfl, by decide, by decide⟩

theorem witness_ErrseenIsStickyUntilReset :
    (isOperation .fver = true ∧ ∃ t, exec .fver State.reset = .next t ∧ t.err ≠ 0#3) ∧
    (isOperation .csum = true ∧ ∃ t, exec .csum State.reset = .next t ∧ t.err = 0#3) ∧
    (∃ s t : State, step s = .next t ∧ s.errseen = true ∧
      ∀ e, s.pending.head? = some e → isResetEvent e = false) ∧
    (presenting verifiedReply [.reset none]).pending = .reset none :: [] := by
  refine ⟨⟨rfl, _, rfl, by decide⟩, ⟨rfl, _, rfl, by decide⟩, ?_, rfl⟩
  refine ⟨{ State.reset with errseen := true }, _, rfl, rfl, ?_⟩
  intro e he
  exact nomatch he

theorem witness_EveryOperationAndNothingElseWritesErr :
    isOperation .wireRead = true ∧ (∃ t, exec .wireRead State.reset = .next t) ∧
    isOperation (.wr 0xFF#8 0#8) = false ∧ (Instr.wr 0xFF#8 0#8).wellFormed = true ∧
    ∃ t, exec (.wr 0xFF#8 0#8) State.reset = .next t := ⟨rfl, ⟨_, rfl⟩, rfl, rfl, _, rfl⟩

theorem witness_FirstFailingCheckDecidesTheError :
    (0x75#8 : Byte).extractLsb' 0 3 = 5#3 ∧ 6 ≤ ((0x06#8 : Byte).extractLsb' 0 3).toNat := by decide

theorem witness_ValidHoldsExactlyWhileTheVerificationStands :
    ∃ t, step (presenting { State.reset with rxlen := 26#8 } [.access 0x12002#17]) = .next t ∧ t.valid = true :=
  ⟨_, rfl, by decide⟩

theorem witness_AccessorsStayDeadUntilTheNextFver :
    let s := presenting verifiedReply [.access 0x11A1A#17, .access 0x02100#17]
    (∃ a d, decodeBus 0x11A1A#17 = .wr a d ∧ a.toNat ≤ 0x1A) ∧
    (decodeBus 0x12001#17 = .fenc ∧ s.plen.toNat ≤ 22) ∧
    (∀ e ∈ [HostEvent.access 0x02100#17], ∀ x, e = .access x → decodeBus x ≠ .fver) ∧
    s.pending = .access 0x11A1A#17 :: ([.access 0x02100#17] ++ []) ∧
    ∃ t, Host.Core.run Sys2Proof.core 2 s = .next t := by
  refine ⟨⟨0x1A#8, 0x1A#8, by decide, by decide⟩, by decide, ?_, rfl, _, rfl⟩
  intro e he x hx
  simp only [List.mem_singleton] at he
  subst he
  cases hx
  decide

theorem witness_OperationsAreFunctionsOfTheRegisters : isOperation .fxenc = true := rfl

theorem witness_EachRegisterChangesOnlyByItsWriters :
    (∃ t, exec (.wr 0x1A#8 1#8) State.reset = .next t ∧ t.rxlen ≠ State.reset.rxlen) ∧
    (∃ t, exec (.wr 0x1B#8 1#8) State.reset = .next t ∧ t.plen ≠ State.reset.plen) ∧
    (∃ t, exec (.wr 0x1C#8 1#8) State.reset = .next t ∧ t.addr ≠ State.reset.addr) ∧
    (∃ t, exec (.wr 0x1D#8 1#8) State.reset = .next t ∧ t.cmd ≠ State.reset.cmd) ∧
    (∃ t, exec (.wr 0x37#8 1#8) State.reset = .next t ∧ t.fxIn ≠ State.reset.fxIn) ∧
    (∃ t, exec (.wr 0x19#8 1#8) State.reset = .next t ∧ t.frame ≠ State.reset.frame) ∧
    (∃ t, exec .wireRead State.reset = .next t ∧ t.csum ≠ State.reset.csum) ∧
    (∃ t, exec .tfieldVset verifiedTelemetry = .next t ∧ t.fxInt ≠ verifiedTelemetry.fxInt ∧
      t.fxOut ≠ verifiedTelemetry.fxOut ∧ t.fxLen ≠ verifiedTelemetry.fxLen ∧
      t.fxBytes ≠ verifiedTelemetry.fxBytes) ∧
    (∃ t, exec .fver verifiedReply = .next t ∧ t.csum = verifiedReply.csum) ∧
    (∃ t, exec .fenc verifiedReply = .next t ∧ t.valid ≠ verifiedReply.valid) ∧
    (∃ t, exec .reservedOp7 verifiedReply = .next t ∧ t.errseen ≠ verifiedReply.errseen) ∧
    (∃ t, exec (.rd 0x20#8) State.reset = .next t ∧ t.returned ≠ State.reset.returned) := by
  refine ⟨⟨_, rfl, by decide⟩, ⟨_, rfl, by decide⟩, ⟨_, rfl, by decide⟩, ⟨_, rfl, by decide⟩, ⟨_, rfl, by decide⟩,
    ⟨_, rfl, by decide⟩, ⟨_, rfl, by decide⟩, ⟨_, rfl, ?_⟩, ⟨_, rfl, by decide⟩, ⟨_, rfl, by decide⟩,
    ⟨_, rfl, by decide⟩, ⟨_, rfl, by decide⟩⟩
  decide +kernel

theorem witness_AStepTakesOneEventAndAnswersOnlyReads :
    (∃ t, step (presenting State.reset [.access 0x0FF00#17]) = .next t) ∧
    wordWe 0x0FF00#17 = false ∧ wordWe 0x10000#17 = true ∧
    (∃ t, step (presenting verifiedReply [.reset (some 0x0FF00#17)]) = .next t ∧ t.returned = [0#8]) ∧
    (∃ t, step (presenting verifiedReply [.reset (some 0x10000#17)]) = .next t ∧ t.returned = []) ∧
    (∃ t, step (presenting verifiedReply [.reset none]) = .next t ∧ t.returned = []) ∧ ∃ t, step State.reset = .next t :=
  ⟨⟨_, rfl⟩, by decide, by decide, ⟨_, rfl, by decide⟩, ⟨_, rfl, by decide⟩, ⟨_, rfl, by decide⟩, _, rfl⟩

theorem witness_ResetWinsFromAnyState :
    (presenting verifiedReply [.reset none]).pending = .reset none :: [] ∧
    (presenting verifiedReply [.reset (some 0x00000#17)]).pending = .reset (some 0x00000#17) :: [] ∧
    (0x00000#17 : BusWord).getLsbD 16 = false ∧ (0x100AA#17 : BusWord).getLsbD 16 = true := by decide

theorem witness_ResetBufferVerifies :
    let s := presenting State.reset [.access (wrWord 0x1A#8 26#8), .access (encode .fver)]
    State.reset.sameRegisters s ∧ s.pending = .access (wrWord 0x1A#8 26#8) :: .access (encode .fver) :: [] := by decide

theorem witness_RdReturnsTheAddressedByte :
    (0x19#8 : Byte).toNat = (25 : Fin 26).val ∧ (0x24#8 : Byte).toNat = 0x24 + (0 : Fin 4).val ∧
    (0x2B#8 : Byte).toNat = 0x28 + 3 ∧ (0x30#8 : Byte).toNat = 0x30 + 0 ∧ (0x3F#8 : Byte).toNat = 0x38 + 7 ∧
    regReserved 0x23#8 ∧ regReserved 0x2C#8 ∧ regReserved 0x2F#8 ∧ regReserved 0x40#8 ∧ regReserved 0xFF#8 ∧
    ¬ regReserved 0x3F#8 ∧ ¬ regReserved 0x2B#8 ∧ ¬ regReserved 0x30#8 := by decide

theorem witness_WrStoresAtTheAddressedByteOnly :
    regWritable 0x00#8 ∧ regWritable 0x1A#8 ∧ regWritable 0x1D#8 ∧ regWritable 0x22#8 ∧ regWritable 0x27#8 ∧
    regWritable 0x37#8 ∧ ¬ regWritable 0x20#8 ∧ ¬ regWritable 0x1E#8 ∧ ¬ regWritable 0x28#8 ∧ ¬ regWritable 0x38#8 := by
  decide

theorem witness_ReservedAndReadOnlyAccesses :
    regReserved 0x23#8 ∧ regReserved 0xFF#8 ∧
    (0x28 ≤ (0x2B#8 : Byte).toNat ∧ (0x2B#8 : Byte).toNat ≤ 0x2B) ∧
    (0x38 ≤ (0x38#8 : Byte).toNat ∧ (0x3F#8 : Byte).toNat ≤ 0x3F) := by decide

theorem witness_ReplyViewOfTheVerifiedFrame : State.reset.valid = false ∧ verifiedReply.valid = true := by decide

theorem witness_WrnThenRdnOfFxInMovesTheValue :
    let es := ((HostLine.wrn (.fxIn 0) 8 (0x4014000000000000#64).toNat).expand ++
      (HostLine.rdn (.fxIn 0) 8).expand).map HostEvent.access
    (presenting State.reset es).pending = es ++ [] := by simp [presenting]

theorem witness_SingleByteChangesAreDetected :
    checksumValid verifiedReply.frame = true ∧ (0x3D#8 : Byte) ≠ frameByte verifiedReply.frame 25 := by decide

theorem witness_CsumWritesTheModulo256Sum : (0xF8#8 : Byte).extractLsb' 0 3 = 0#3 := by decide

theorem witness_AnyAdderOfEightBitsOrMoreGivesTheChecksum :
    ((verifiedReply.frame.toList.take 25).reverse).Perm (verifiedReply.frame.toList.take 25) ∧ 8 ≤ 13 :=
  ⟨List.reverse_perm _, by decide⟩

theorem witness_FencBuildsTheOutboundFrame :
    (0x09#8 : Byte).extractLsb' 0 3 = 1#3 ∧ 22 < ({ State.reset with plen := 23#8 } : State).plen.toNat ∧
    ({ State.reset with plen := 22#8 } : State).plen.toNat ≤ 22 := by decide

theorem witness_FencMeetsTheEncodeContract :
    let s : State := { State.reset with frame := frameOf [0, 0, 0, 0x88, 0x13], plen := 2#8 }
    let p : List Byte := [0x88#8, 0x13#8]
    p.length ≤ 22 ∧ s.plen.toNat = p.length ∧ (s.frame.toList.drop 3).take p.length = p := by decide

theorem witness_FencIgnoresUnstagedBytes :
    let s : State := { State.reset with plen := 1#8 }
    let s' : State := { State.reset with plen := 1#8, frame := frameOf [7, 7, 7, 0, 7] }
    s.addr = s'.addr ∧ s.cmd = s'.cmd ∧ s.plen = s'.plen ∧ s.plen.toNat ≤ 22 ∧
    ∀ k < 4, 3 ≤ k → frameByte s.frame k = frameByte s'.frame k := by decide

theorem witness_WireRowsCarryTheirCommandCode :
    22 < ({ State.reset with plen := 23#8 } : State).plen.toNat ∧
    ({ State.reset with plen := 4#8, cmd := 0x23#8 } : State).plen.toNat = 4 := by decide

theorem witness_FverChecksLengthAndChecksumOnly :
    (0xFA#8 : Byte).extractLsb' 0 3 = 2#3 ∧
    26 < ({ verifiedReply with rxlen := 27#8 } : State).rxlen.toNat ∧
    ({ verifiedReply with rxlen := 25#8 } : State).rxlen.toNat < 26 ∧
    verifiedReply.rxlen.toNat = 26 ∧ frameByte verifiedReply.frame 25 = checksum verifiedReply.frame ∧
    frameByte (verifiedReply.frame.setIfInBounds 25 0x3D#8) 25 ≠
      checksum (verifiedReply.frame.setIfInBounds 25 0x3D#8) := by decide

theorem witness_EncodeThenVerifySucceeds :
    let s := presenting { State.reset with plen := 22#8, cmd := 0x23#8 }
      [.access 0x12001#17, .access 0x01900#17, .access 0x11A1A#17, .access 0x12002#17]
    decodeBus 0x12001#17 = .fenc ∧ decodeBus 0x11A1A#17 = .wr 0x1A#8 26#8 ∧ decodeBus 0x12002#17 = .fver ∧
    (∀ e ∈ [HostEvent.access 0x01900#17] ++ [], isReadEvent e = true) ∧ s.plen.toNat ≤ 22 ∧
    s.pending = .access 0x12001#17 :: ([.access 0x01900#17] ++ .access 0x11A1A#17 :: ([] ++ .access 0x12002#17 :: [])) := by
  decide

theorem witness_AlteredChecksumByteIsDetected :
    ∃ t u : State, exec .fver verifiedReply = .next t ∧ t.valid = true ∧ 0x3D#8 ≠ frameByte t.frame 25 ∧
      exec (.wr 0x19#8 0x3D#8) t = .next u := ⟨_, _, rfl, by decide, by decide, rfl⟩

theorem witness_RoundingIsNearestEvenWithOverflow : 0 < 1000 := by decide

theorem witness_FxencScalesRoundsTruncates :
    (0x03#8 : Byte).extractLsb' 0 3 = 3#3 ∧ f64IsNaN 0x7FF8000000000000#64 = true ∧
    f64IsInf 0xFFF0000000000000#64 = true ∧ f64Finite 0x4014000000000000#64 := by decide

/-- The three cases of the rounded product: overflow (V60), out of range (V56), accepted (V55). -/
theorem witness_FxencScalesRoundsTruncates_cases :
    f64IsInf (f64MulNat 0x7FE1CCF385EBC8A0#64 1000) = true ∧
    2 ^ 32 - 1 < f64Trunc (f64MulNat 0x4150624DD2F1A9FC#64 1000) ∧
    f64Trunc (f64MulNat 0xBF50624DD2F1A9FC#64 1000) < 0 ∧
    f64Trunc (f64MulNat 0x4150624DD2F1A9FB#64 1000) = 2 ^ 32 - 1 := by decide +kernel

theorem witness_FxdecAccumulatesAndDivides :
    (0x04#8 : Byte).extractLsb' 0 3 = 4#3 ∧ 4 < ({ State.reset with fxLen := 5#8 } : State).fxLen.toNat ∧
    ({ State.reset with fxLen := 4#8 } : State).fxLen.toNat ≤ 4 := by decide

theorem witness_TfieldExtractsTheSelectedField :
    (0x45#8 : Byte).extractLsb' 0 3 = 5#3 ∧ ((0x45#8 : Byte).extractLsb' 4 3).toNat = 4 ∧
    ((0x55#8 : Byte).extractLsb' 0 3 = 5#3 ∧ 4 < ((0x55#8 : Byte).extractLsb' 4 3).toNat) ∧
    State.reset.valid = false ∧ verifiedTelemetry.valid = true := by decide

theorem witness_FixedPointRoundTripLosesAtMostOne : ({ State.reset with fxLen := 4#8 } : State).fxLen.toNat ≤ 4 := by
  decide

/-- 5000 is a multiple of 1000, decoded from four bytes. -/
theorem witness_FixedPointRoundTripExactCases :
    ∃ t, exec .fxdec { State.reset with fxLen := 4#8, fxBytes := #v[0x88#8, 0x13#8, 0#8, 0#8] } = .next t ∧
      t.fxInt.toNat = 1000 * 5 := ⟨_, rfl, by decide⟩

theorem real_five : f64Real 0x4014000000000000#64 = 5 := by
  have h1 : f64Sign 0x4014000000000000#64 = false := by decide
  have h2 : f64Exp 0x4014000000000000#64 = 1025 := by decide
  have h3 : f64Frac 0x4014000000000000#64 = 2 ^ 50 := by decide
  rw [f64Real, h1, h2, h3]
  norm_num

theorem real_five_thousand : f64Real 0x40B3880000000000#64 = 5000 := by
  have h1 : f64Sign 0x40B3880000000000#64 = false := by decide
  have h2 : f64Exp 0x40B3880000000000#64 = 1035 := by decide
  have h3 : f64Frac 0x40B3880000000000#64 = 0x3880000000000 := by decide
  rw [f64Real, h1, h2, h3]
  norm_num

/-- The rounded product of 5.0 (V50) is exactly 5000, not below the integer decoded. -/
theorem witness_FixedPointRoundTripExactCases_product :
    IsFl64 (f64Real 0x4014000000000000#64 * 1000) 0x40B3880000000000#64 ∧
    ((5000 : ℕ) : ℚ) ≤ f64Real 0x40B3880000000000#64 := by
  refine ⟨?_, by rw [real_five_thousand]; norm_num⟩
  rw [real_five]
  refine isFl64_of_exact (by decide) (by rw [real_five_thousand]; norm_num) ?_ (fun _ => by decide) (fun h => ?_)
  · have h : (2 : ℚ) ^ 970 * (2 ^ 54 - 1) = 2 ^ 1024 - 2 ^ 970 := by
      rw [mul_sub, ← pow_add, mul_one]
    have h1 : (1 : ℚ) ≤ 2 ^ 970 := one_le_pow₀ (by norm_num)
    rw [← h, show |(5 : ℚ) * 1000| = 5000 by norm_num]
    calc (5000 : ℚ) < 1 * (2 ^ 54 - 1) := by norm_num
      _ ≤ 2 ^ 970 * (2 ^ 54 - 1) := mul_le_mul_of_nonneg_right h1 (by norm_num)
  · norm_num at h

theorem witness_SuccessTestIsRvalidWithSclassOne : successTest verifiedReply = true ∧ successTest State.reset = false := by
  decide

end Sys2Proof.Tests
end

/-! SUPPORT. What a step does around an instruction (spec/00_scope.md R10, spec/70_reset_and_hazards.md R321), and which
instruction a read word and a write word are (spec/30_encoding.md R102, R103). -/

namespace Sys2Proof.Machine

theorem step_access {s : State} {w : BusWord} {rest : List HostEvent} (h : s.pending = .access w :: rest) :
    step s = exec (decodeAt s.cmd w) (s.setPending rest) := by
  unfold step
  rw [h]
  rfl

theorem step_reset {s : State} {w : Option BusWord} {rest : List HostEvent} (h : s.pending = .reset w :: rest) :
    step s = .next (resetStep w (s.setPending rest)) := by
  unfold step
  rw [h]

theorem step_wait {s : State} (h : s.pending = []) : step s = .next s := by
  unfold step
  rw [h]
  rfl

/-- Settles O1, from the step's equations on an access and on no event. -/
theorem stepPerformsTheNextHostAccess : Obligations.StepPerformsTheNextHostAccess :=
  ⟨fun _ _ _ h => step_access h, fun _ h => step_wait h⟩

/-- Settles O29: within the window the offset from the base is the register address, and it is below 256. -/
theorem theWindowIsTheHostAddressesFromTheBase : Obligations.TheWindowIsTheHostAddressesFromTheBase := by
  unfold Obligations.TheWindowIsTheHostAddressesFromTheBase
  intro base h a
  have ha := a.isLt
  unfold Config.windowAddress Config.hostAddress
  split
  next hwin =>
    rw [Option.some_inj, ← BitVec.toNat_inj, BitVec.toNat_ofNat]
    omega
  next hwin => exact iff_of_false (by simp) (by omega)

/-! ### Operations and the host port -/

/-- `s` with another host's side of the port. -/
def State.withPort (s : State) (p : List HostEvent) (r : List Byte) : State := { s with pending := p, returned := r }

/-- An update of the registers that neither reads nor writes the host's side of the port. -/
def PortFree (f : State → State) : Prop := ∀ s p r, f (s.withPort p r) = (f s).withPort p r

theorem PortFree.pending_eq {f : State → State} (hf : PortFree f) (s : State) : (f s).pending = s.pending := by
  have h := congrArg State.pending (hf s s.pending s.returned)
  exact h

theorem PortFree.returned_eq {f : State → State} (hf : PortFree f) (s : State) : (f s).returned = s.returned := by
  have h := congrArg State.returned (hf s s.pending s.returned)
  exact h

theorem portFree_raise (e : ErrCode) : PortFree (State.raise · e) := fun _ _ _ => rfl

theorem portFree_csum : PortFree fun s => State.succeed { s with csum := checksum s.frame } := fun _ _ _ => rfl

/-- A check that reads registers alone chooses between two such updates. -/
theorem PortFree.ite {c : State → Prop} [DecidablePred c] {f g : State → State}
    (hc : ∀ s p r, c (s.withPort p r) ↔ c s) (hf : PortFree f) (hg : PortFree g) :
    PortFree fun s => if c s then f s else g s := by
  intro s p r
  by_cases h : c s
  · simpa only [if_pos h, if_pos ((hc s p r).mpr h)] using hf s p r
  · simpa only [if_neg h, if_neg (mt (hc s p r).mp h)] using hg s p r

theorem portFree_fencWith (cmd : Byte) : PortFree (fencWith cmd) :=
  .ite (fun _ _ _ => Iff.rfl) (portFree_raise _) fun _ _ _ => rfl

/-- FENC reads its command code from a register. -/
theorem portFree_fenc : PortFree fun s => fencWith s.cmd s := fun s => portFree_fencWith s.cmd s

theorem portFree_verifyFrame : PortFree verifyFrame :=
  .ite (fun _ _ _ => Iff.rfl) (fun _ _ _ => rfl) <| .ite (fun _ _ _ => Iff.rfl) (fun _ _ _ => rfl) <|
    .ite (fun _ _ _ => Iff.rfl) (fun _ _ _ => rfl) fun _ _ _ => rfl

theorem portFree_decodeFixed : PortFree decodeFixed :=
  .ite (fun _ _ _ => Iff.rfl) (portFree_raise _) fun _ _ _ => rfl

theorem portFree_encodeFixed : PortFree encodeFixed :=
  .ite (fun _ _ _ => Iff.rfl) (portFree_raise _) <| .ite (fun _ _ _ => Iff.rfl) (portFree_raise _) <|
    .ite (fun _ _ _ => Iff.rfl) (portFree_raise _) fun _ _ _ => rfl

theorem portFree_extractField (field : Config.TelemetryField) : PortFree (extractField field) :=
  .ite (fun _ _ _ => Iff.rfl) (fun _ _ _ => rfl) (portFree_raise _)

/-- Every operation completes, by an update of the registers alone. -/
theorem exec_operation {i : Instr} (hi : isOperation i = true) :
    ∃ f : State → State, PortFree f ∧ ∀ s, exec i s = .next (f s) := by
  cases i with
  | rd a => cases hi
  | wr a d => cases hi
  | csum => exact ⟨_, portFree_csum, fun _ => rfl⟩
  | fenc => exact ⟨_, portFree_fenc, fun _ => rfl⟩
  | fver => exact ⟨_, portFree_verifyFrame, fun _ => rfl⟩
  | fxenc => exact ⟨_, portFree_encodeFixed, fun _ => rfl⟩
  | fxdec => exact ⟨_, portFree_decodeFixed, fun _ => rfl⟩
  | tfieldCurrent | tfieldVoltage | tfieldMaxCurrent | tfieldMaxVoltage | tfieldVset =>
    exact ⟨_, portFree_extractField _, fun _ => rfl⟩
  | tfieldReserved5 | tfieldReserved67 | reservedOp6 | reservedOp7 => exact ⟨_, portFree_raise _, fun _ => rfl⟩
  | wireRemote | wireOutput | wireSetMaxV | wireSetV | wireSetMaxI | wireRead =>
    exact ⟨_, portFree_fencWith _, fun _ => rfl⟩

/-- Settles O16: an operation is an update of the registers alone, and an RD only hands over a byte. -/
theorem operationsAreFunctionsOfTheRegisters : Obligations.OperationsAreFunctionsOfTheRegisters := by
  refine ⟨fun i s hi => ?_, fun a s => ⟨_, rfl, rfl⟩⟩
  obtain ⟨f, hf, hexec⟩ := exec_operation hi
  exact ⟨f s, hexec s, hf.pending_eq s, hf.returned_eq s, fun p r => (hexec _).trans (congrArg _ (hf s p r))⟩

/-! ### The instruction of a read word and of a write word -/

theorem isOperation_decodeTfield (f : BitVec 3) : isOperation (decodeTfield f) = true := by
  unfold decodeTfield
  split <;> rfl

theorem isOperation_decodeCtrl (c : Byte) : isOperation (decodeCtrl c) = true := by
  unfold decodeCtrl
  split
  case h_6 => exact isOperation_decodeTfield _
  all_goals rfl

theorem isOperation_decodeCommand {c : Byte} {i : Instr} (h : decodeCommand c = some i) : isOperation i = true := by
  unfold decodeCommand at h
  split at h
  all_goals cases h <;> rfl

theorem decodeAt_of_read (cmd : Byte) {w : BusWord} (h : wordWe w = false) : decodeAt cmd w = .rd (wordA w) := by
  simp [decodeAt, decodeBus, h]

theorem decodeBus_of_write {w : BusWord} (h : wordWe w = true) :
    isOperation (decodeBus w) = true ∨ ∃ a d, a ≠ ctrlAddr ∧ decodeBus w = .wr a d := by
  unfold decodeBus
  rw [if_pos h]
  split
  next ha => exact .inl (isOperation_decodeCtrl _)
  next ha => exact .inr ⟨_, _, ha, rfl⟩

theorem decodeAt_of_write (cmd : Byte) {w : BusWord} (h : wordWe w = true) :
    isOperation (decodeAt cmd w) = true ∨ ∃ a d, a ≠ ctrlAddr ∧ decodeAt cmd w = .wr a d := by
  rcases decodeAt_cases cmd w with hbus | ⟨-, i, hcode, hrow⟩
  · rw [hbus]
    exact decodeBus_of_write h
  · rw [hrow]
    exact .inl (isOperation_decodeCommand hcode)

/-! ### The host port in a step -/

theorem execWr_of_ne_ctrl {a : Byte} (ha : a ≠ ctrlAddr) (d : Byte) (s : State) :
    exec (.wr a d) s = .next (busStore s a d) := if_neg ha

/-- What a write word asks leaves the host port alone. -/
theorem exec_of_write (cmd : Byte) {w : BusWord} (h : wordWe w = true) (s : State) :
    ∃ t, exec (decodeAt cmd w) s = .next t ∧ t.pending = s.pending ∧ t.returned = s.returned := by
  rcases decodeAt_of_write cmd h with hop | ⟨a, d, ha, hwr⟩
  · obtain ⟨f, hf, hexec⟩ := exec_operation hop
    exact ⟨f s, hexec s, hf.pending_eq s, hf.returned_eq s⟩
  · exact ⟨_, hwr ▸ execWr_of_ne_ctrl ha d s, busStore_pending s a d, busStore_returned s a d⟩

/-- An access is taken off the list, and a read alone is answered, by one byte. -/
theorem step_access_port {s : State} {w : BusWord} {rest : List HostEvent} (h : s.pending = .access w :: rest) :
    ∃ t, step s = .next t ∧ t.pending = rest ∧ (wordWe w = true → t.returned = s.returned) ∧
      (wordWe w = false → ∃ b, t.returned = s.returned ++ [b]) := by
  rw [step_access h]
  cases hwe : wordWe w with
  | false =>
    rw [decodeAt_of_read s.cmd hwe]
    exact ⟨_, rfl, rfl, nofun, fun _ => ⟨_, rfl⟩⟩
  | true =>
    obtain ⟨t, ht, hp, hr⟩ := exec_of_write s.cmd hwe (s.setPending rest)
    exact ⟨t, ht, hp, fun _ => hr, nofun⟩

@[simp] theorem resetStep_pending (w : Option BusWord) (s : State) : (resetStep w s).pending = s.pending := by
  unfold resetStep
  split
  · rfl
  · split <;> rfl

theorem resetStep_read_returned {x : BusWord} (h : wordWe x = false) (s : State) :
    (resetStep (some x) s).returned = s.returned ++ [0#8] := by
  simp [resetStep, h, resetRegisters]

theorem resetStep_returned_of_no_read {w : Option BusWord} (h : ∀ x, w = some x → wordWe x = true) (s : State) :
    (resetStep w s).returned = s.returned := by
  cases w with
  | none => rfl
  | some x => simp [resetStep, h x rfl, resetRegisters]

/-- Settles O18, by the event the step takes: none, an access, a reset. -/
theorem aStepTakesOneEventAndAnswersOnlyReads : Obligations.AStepTakesOneEventAndAnswersOnlyReads := by
  intro s t hstep
  rcases hs : s.pending with _ | ⟨w | w, rest⟩
  · obtain rfl : s = t := by simpa [step_wait hs] using hstep
    simp [hs]
  · obtain ⟨t', ht', hpending, hwrite, hread⟩ := step_access_port hs
    obtain rfl : t' = t := by simpa [ht'] using hstep
    refine ⟨hpending, ?_, by simp, by simp⟩
    rintro w' rest' h
    obtain ⟨rfl, -⟩ : w = w' ∧ rest = rest' := by simpa using h
    exact ⟨hwrite, hread⟩
  · obtain rfl : resetStep w (s.setPending rest) = t := by simpa [step_reset hs] using hstep
    refine ⟨by simp, by simp, ?_, by simp⟩
    rintro w' rest' h
    obtain ⟨rfl, -⟩ : w = w' ∧ rest = rest' := by simpa using h
    exact ⟨fun x hx hwe => hx ▸ resetStep_read_returned hwe _, fun hall => resetStep_returned_of_no_read hall _⟩

end Sys2Proof.Machine

/-! SUPPORT. The model's rounding is `fl64` (spec/00_scope.md R9): the values of encodings in units of 2^-1074, the
place and significand that `f64RoundUnits` chooses, nearness on the grid of that place and below it, and where it
overflows. -/

namespace Sys2Proof.Machine

/-! ### Encodings in units of 2^-1074 -/

theorem f64Real_eq_units (b : BitVec 64) :
    f64Real b = (if f64Sign b then -1 else 1) * ((f64Units b : ℚ) * 2 ^ (-1074 : ℤ)) := by
  unfold f64Real f64Units
  congr 1
  rcases Nat.eq_zero_or_eq_succ_pred (f64Exp b) with he | he
  · rw [if_pos he, if_pos he]
  · have hz : ((Nat.pred (f64Exp b)).succ : ℤ) - 1075 = (Nat.pred (f64Exp b) : ℤ) + -1074 := by push_cast; ring
    rw [he, if_neg (Nat.succ_ne_zero _), if_neg (Nat.succ_ne_zero _), hz, zpow_add₀ two_ne_zero, zpow_natCast,
      Nat.succ_sub_one, Nat.cast_mul, Nat.cast_pow, Nat.cast_ofNat, mul_assoc]

/-- A significand of at most 53 bits (a carry to `2^53` included) at place `t` packs to `r * 2^t` units. -/
theorem f64Units_pack {t r : Nat} (sign : Bool) (hm : t * 2 ^ 52 + r < 2 ^ 63) (hr : r ≤ 2 ^ 53)
    (ht : 0 < t → 2 ^ 52 ≤ r) : f64Units (f64Pack sign (t * 2 ^ 52 + r)) = r * 2 ^ t := by
  rw [f64Units, f64Exp_pack hm, f64Frac_pack hm]
  rcases Nat.lt_trichotomy r (2 ^ 52) with h | h | h
  · obtain rfl : t = 0 := by omega
    rw [if_pos (by omega), pow_zero]
    omega
  · subst h
    rw [show (t * 2 ^ 52 + 2 ^ 52) / 2 ^ 52 = t + 1 by omega, show (t * 2 ^ 52 + 2 ^ 52) % 2 ^ 52 = 0 by omega]
    simp
  · rcases Nat.lt_or_eq_of_le hr with h53 | rfl
    · rw [show (t * 2 ^ 52 + r) / 2 ^ 52 = t + 1 by omega, show 2 ^ 52 + (t * 2 ^ 52 + r) % 2 ^ 52 = r by omega]
      simp
    · rw [show (t * 2 ^ 52 + 2 ^ 53) / 2 ^ 52 = t + 2 by omega, show (t * 2 ^ 52 + 2 ^ 53) % 2 ^ 52 = 0 by omega,
        if_neg (by omega), show t + 2 - 1 = t + 1 by omega, pow_succ]
      omega

/-- Every value lies on the grid of `2^t` units or below the first binade that has this grid. -/
theorem f64Units_grid (b : BitVec 64) (t : Nat) : 2 ^ t ∣ f64Units b ∨ 0 < t ∧ f64Units b < 2 ^ (52 + t) := by
  have hf : f64Frac b < 2 ^ 52 := (b.extractLsb' 0 52).isLt
  unfold f64Units
  split
  · rcases Nat.eq_zero_or_pos t with rfl | ht
    · exact .inl (one_dvd _)
    · exact .inr ⟨ht, hf.trans_le (Nat.pow_le_pow_right two_pos (by omega))⟩
  · rcases Nat.lt_or_ge (f64Exp b - 1) t with h | h
    · refine .inr ⟨by omega, ?_⟩
      calc (2 ^ 52 + f64Frac b) * 2 ^ (f64Exp b - 1)
          < 2 ^ 53 * 2 ^ (f64Exp b - 1) := Nat.mul_lt_mul_of_pos_right (by omega) (Nat.two_pow_pos _)
        _ = 2 ^ (53 + (f64Exp b - 1)) := (pow_add _ _ _).symm
        _ ≤ 2 ^ (52 + t) := Nat.pow_le_pow_right two_pos (by omega)
    · exact .inl (Dvd.dvd.mul_left (pow_dvd_pow 2 h) _)

/-- The value of an encoding in units of 2^-1074, counted positive in the direction of `sign`. -/
def unitsToward (sign : Bool) (b : BitVec 64) : ℤ := if f64Sign b = sign then f64Units b else -f64Units b

theorem f64Real_eq_unitsToward (sign : Bool) (b : BitVec 64) :
    f64Real b = (if sign then -1 else 1) * ((unitsToward sign b : ℚ) * 2 ^ (-1074 : ℤ)) := by
  rw [f64Real_eq_units, unitsToward]
  cases sign <;> cases f64Sign b <;> simp

theorem unitsToward_pack {m : Nat} (hm : m < 2 ^ 63) (sign : Bool) :
    unitsToward sign (f64Pack sign m) = f64Units (f64Pack sign m) := if_pos (f64Sign_pack hm sign)

theorem unitsToward_grid (sign : Bool) (b : BitVec 64) (t : Nat) :
    (2 ^ t : ℤ) ∣ unitsToward sign b ∨ 0 < t ∧ unitsToward sign b < 2 ^ (52 + t) := by
  have hpos : (0 : ℤ) < 2 ^ (52 + t) := pow_pos two_pos _
  rcases f64Units_grid b t with h | ⟨ht, h⟩
  · have hz : (2 ^ t : ℤ) ∣ f64Units b := by exact_mod_cast h
    refine .inl ?_
    unfold unitsToward
    split
    · exact hz
    · exact (dvd_neg).mpr hz
  · have hz : (f64Units b : ℤ) < 2 ^ (52 + t) := by exact_mod_cast h
    refine .inr ⟨ht, ?_⟩
    unfold unitsToward
    split <;> omega

/-! ### The place and the significand of a rounding -/

/-- The exponent of the last place of the rounded result, in units. -/
def roundPlace (num den : Nat) : Nat := Nat.log2 (num / den) - 52

/-- The rounded number of last places. -/
def roundSignificand (num den : Nat) : Nat := divNearestEven num (den * 2 ^ roundPlace num den)

theorem f64RoundUnits_eq (num den : Nat) :
    f64RoundUnits num den = min (roundPlace num den * 2 ^ 52 + roundSignificand num den) f64Infinity := rfl

theorem two_pow_add_mul (a b d : Nat) : 2 ^ (a + b) * d = 2 ^ a * (2 ^ b * d) := by rw [pow_add, mul_assoc]

section
variable {num den : Nat} (hden : 0 < den)
include hden

theorem lt_of_roundPlace : num < 2 ^ (53 + roundPlace num den) * den := by
  rw [← Nat.div_lt_iff_lt_mul hden]
  refine Nat.lt_log2_self.trans_le (Nat.pow_le_pow_right two_pos ?_)
  unfold roundPlace
  omega

theorem le_of_roundPlace_pos (ht : 0 < roundPlace num den) : 2 ^ (52 + roundPlace num den) * den ≤ num := by
  have hlog : 52 + roundPlace num den = Nat.log2 (num / den) := by unfold roundPlace at ht ⊢; omega
  have hq : num / den ≠ 0 := fun h => by simp [roundPlace, h] at ht
  rw [← Nat.le_div_iff_mul_le hden, hlog]
  exact Nat.log2_self_le hq

theorem roundSignificand_spec :
    2 * num ≤ (2 * roundSignificand num den + 1) * (den * 2 ^ roundPlace num den) ∧
    2 * roundSignificand num den * (den * 2 ^ roundPlace num den) ≤ 2 * num + den * 2 ^ roundPlace num den ∧
    (2 * num = (2 * roundSignificand num den + 1) * (den * 2 ^ roundPlace num den) ∨
      2 * roundSignificand num den * (den * 2 ^ roundPlace num den) = 2 * num + den * 2 ^ roundPlace num den →
      roundSignificand num den % 2 = 0) :=
  divNearestEven_spec num (Nat.mul_pos hden (Nat.two_pow_pos _))

theorem roundSignificand_le : roundSignificand num den ≤ 2 ^ 53 := by
  have hpos : 0 < den * 2 ^ roundPlace num den := Nat.mul_pos hden (Nat.two_pow_pos _)
  have hlt : num < 2 ^ 53 * (den * 2 ^ roundPlace num den) := by
    calc num < 2 ^ (53 + roundPlace num den) * den := lt_of_roundPlace hden
      _ = 2 ^ 53 * (den * 2 ^ roundPlace num den) := by rw [two_pow_add_mul, mul_comm den]
  obtain ⟨-, hle, -⟩ := roundSignificand_spec (num := num) hden
  by_contra h
  have := Nat.mul_le_mul_right (den * 2 ^ roundPlace num den) (Nat.succ_le_of_lt (not_le.mp h))
  nlinarith

theorem le_roundSignificand (ht : 0 < roundPlace num den) : 2 ^ 52 ≤ roundSignificand num den := by
  have hpos : 0 < den * 2 ^ roundPlace num den := Nat.mul_pos hden (Nat.two_pow_pos _)
  have hge : 2 ^ 52 * (den * 2 ^ roundPlace num den) ≤ num := by
    calc 2 ^ 52 * (den * 2 ^ roundPlace num den)
        = 2 ^ (52 + roundPlace num den) * den := by rw [two_pow_add_mul, mul_comm den]
      _ ≤ num := le_of_roundPlace_pos hden ht
  obtain ⟨hle, -, -⟩ := roundSignificand_spec (num := num) hden
  by_contra h
  have := Nat.mul_le_mul_right (den * 2 ^ roundPlace num den) (Nat.succ_le_of_lt (not_le.mp h))
  nlinarith

end

/-! ### Nearness -/

/-- The distance of the rounded result, without overflow, from the quotient. -/
def roundError (num den : Nat) : ℚ := |(roundSignificand num den : ℚ) * 2 ^ roundPlace num den - num / den|

/-- Within half a step of one grid point, every other is at least half a step away. -/
theorem half_le_abs_grid_sub {p x : ℚ} (hp : 0 < p) {r k : ℤ} (hr : |r * p - x| ≤ p / 2) (hk : k ≠ r) :
    p / 2 ≤ |k * p - x| := by
  have hone : (1 : ℚ) ≤ |(k : ℚ) - r| := by exact_mod_cast Int.one_le_abs (sub_ne_zero.mpr hk)
  have hgap : p ≤ |k * p - r * p| := by
    rw [← sub_mul, abs_mul, abs_of_pos hp]
    exact le_mul_of_one_le_left hp.le hone
  have htri := abs_sub_le (k * p) x (r * p)
  rw [abs_sub_comm x] at htri
  linarith

section
variable {num den : Nat} (hden : 0 < den)
include hden

/-- The error is at most half a last place, and the result is even where it is exactly that. -/
theorem roundError_le_half :
    roundError num den ≤ 2 ^ roundPlace num den / 2 ∧
    (roundError num den = 2 ^ roundPlace num den / 2 → roundSignificand num den % 2 = 0) := by
  obtain ⟨hup, hlo, htie⟩ := roundSignificand_spec (num := num) hden
  have hd : (0 : ℚ) < den := by exact_mod_cast hden
  unfold roundError
  generalize roundPlace num den = t at *
  generalize roundSignificand num den = r at *
  have hx : (num : ℚ) = num / den * den := (div_mul_cancel₀ _ hd.ne').symm
  have hup' : (2 * num : ℚ) ≤ (2 * r + 1) * (den * 2 ^ t) := by exact_mod_cast hup
  have hlo' : (2 * r * (den * 2 ^ t) : ℚ) ≤ 2 * num + den * 2 ^ t := by exact_mod_cast hlo
  generalize (num : ℚ) / den = x at *
  rw [hx] at hup' hlo'
  refine ⟨abs_le.mpr ⟨?_, ?_⟩, fun h => htie ?_⟩
  · refine le_of_mul_le_mul_right ?_ hd; linarith
  · refine le_of_mul_le_mul_right ?_ hd; linarith
  · rcases eq_or_eq_neg_of_abs_eq h with h | h
    · have heq : (2 * r * (den * 2 ^ t) : ℚ) = 2 * num + den * 2 ^ t := by rw [hx]; linear_combination 2 * den * h
      exact .inr (by exact_mod_cast heq)
    · have heq : (2 * num : ℚ) = (2 * r + 1) * (den * 2 ^ t) := by rw [hx]; linear_combination -2 * den * h
      exact .inl (by exact_mod_cast heq)

/-- No point of the grid of the last place is nearer, and the result is even where another is as near. -/
theorem roundError_le_on_grid (k : ℤ) :
    roundError num den ≤ |(k : ℚ) * 2 ^ roundPlace num den - num / den| ∧
    (roundError num den = |(k : ℚ) * 2 ^ roundPlace num den - num / den| →
      k ≠ roundSignificand num den → roundSignificand num den % 2 = 0) := by
  obtain ⟨hhalf, htie⟩ := roundError_le_half (num := num) hden
  rcases eq_or_ne k (roundSignificand num den : ℤ) with rfl | hk
  · exact ⟨by rw [Int.cast_natCast]; exact le_rfl, fun _ h => absurd rfl h⟩
  · have hfar := half_le_abs_grid_sub (pow_pos two_pos _) (r := roundSignificand num den) hhalf hk
    exact ⟨hhalf.trans hfar, fun h _ => htie (le_antisymm hhalf (h ▸ hfar))⟩

/-- Below the binade of the result the grid is finer, but the first point `2^52` of the binade is nearer than anything
there. -/
theorem roundError_lt_below {w : ℤ} (ht : 0 < roundPlace num den) (hw : w < 2 ^ (52 + roundPlace num den)) :
    roundError num den < |(w : ℚ) - num / den| := by
  have hgrid := (roundError_le_on_grid (num := num) hden (2 ^ 52)).1
  have hle : ((2 ^ (52 + roundPlace num den) : ℤ) : ℚ) ≤ num / den := by
    rw [le_div_iff₀ (by exact_mod_cast hden)]
    exact_mod_cast le_of_roundPlace_pos hden ht
  have hw' : (w : ℚ) < (2 ^ (52 + roundPlace num den) : ℤ) := Int.cast_lt.mpr hw
  rw [pow_add, Int.cast_mul, Int.cast_pow 2 (roundPlace num den), Int.cast_ofNat] at hle hw'
  generalize ((2 ^ 52 : ℤ) : ℚ) * 2 ^ roundPlace num den = b at *
  rw [abs_sub_comm, abs_of_nonneg (by linarith)] at hgrid ⊢
  linarith

/-- The rounding is nearest, ties to even, among all the values of encodings of either sign. -/
theorem roundError_le (sign : Bool) (c : BitVec 64) :
    roundError num den ≤ |(unitsToward sign c : ℚ) - num / den| ∧
    (roundError num den = |(unitsToward sign c : ℚ) - num / den| →
      (unitsToward sign c : ℚ) ≠ roundSignificand num den * 2 ^ roundPlace num den →
      roundSignificand num den % 2 = 0) := by
  rcases unitsToward_grid sign c (roundPlace num den) with ⟨k, hk⟩ | ⟨ht, hlt⟩
  · have hk' : (unitsToward sign c : ℚ) = k * 2 ^ roundPlace num den := by rw [hk]; push_cast; ring
    obtain ⟨hle, htie⟩ := roundError_le_on_grid (num := num) hden k
    rw [hk']
    exact ⟨hle, fun h hne => htie h fun hkr => hne (by rw [hkr, Int.cast_natCast])⟩
  · have hlt := roundError_lt_below hden ht hlt
    exact ⟨hlt.le, fun h => absurd h hlt.ne⟩

end

/-! ### Overflow -/

theorem f64Infinity_eq : f64Infinity = 2047 * 2 ^ 52 := by decide

/-- In the top binade, with last place `2 * d`, the significand carries to `2^53` from half a last place above the
largest on: `2^53 - 1` is odd, so a tie goes up. -/
theorem divNearestEven_lt_iff_of_top_binade (num : Nat) {d : Nat} (hd : 0 < d) :
    divNearestEven num (2 * d) < 2 ^ 53 ↔ num < (2 ^ 54 - 1) * d := by
  obtain ⟨hup, hlo, htie⟩ := divNearestEven_spec num (Nat.mul_pos two_pos hd)
  generalize divNearestEven num (2 * d) = r at *
  constructor
  · intro hr
    by_contra hge
    have hmul : (2 ^ 54 - 1) * (2 * d) ≤ (2 * r + 1) * (2 * d) := by omega
    have hr54 : 2 ^ 54 - 1 ≤ 2 * r + 1 := Nat.le_of_mul_le_mul_right hmul (by omega)
    obtain rfl : r = 2 ^ 53 - 1 := by omega
    omega
  · intro hnum
    by_contra hr
    have hmul : 2 * 2 ^ 53 * (2 * d) ≤ 2 * r * (2 * d) := Nat.mul_le_mul_right _ (by omega)
    omega

theorem two_pow_add_mul_zpow_neg (a b : Nat) : (2 : ℚ) ^ (a + b) * 2 ^ (-b : ℤ) = 2 ^ a := by
  rw [pow_add, zpow_neg, zpow_natCast, mul_assoc, mul_inv_cancel₀ (pow_ne_zero b two_ne_zero), mul_one]

section
variable {num den : Nat} (hden : 0 < den)
include hden

/-- The encoding stays below infinity's exactly below half a last place above the largest finite value. -/
theorem roundPlace_add_roundSignificand_lt_iff :
    roundPlace num den * 2 ^ 52 + roundSignificand num den < f64Infinity ↔
      num < (2 ^ 54 - 1) * (2 ^ 2044 * den) := by
  have hupper := lt_of_roundPlace (num := num) hden
  have hlower := le_of_roundPlace_pos (num := num) hden
  have hr := roundSignificand_le (num := num) hden
  have hr' := le_roundSignificand (num := num) hden
  unfold roundSignificand at *
  generalize roundPlace num den = t at *
  rcases Nat.lt_trichotomy t 2045 with ht | rfl | ht
  · refine iff_of_true (by rw [f64Infinity_eq]; omega) (hupper.trans_le ?_)
    calc 2 ^ (53 + t) * den ≤ 2 ^ (53 + 2044) * den :=
          Nat.mul_le_mul_right _ (Nat.pow_le_pow_right two_pos (by omega))
      _ = 2 ^ 53 * (2 ^ 2044 * den) := two_pow_add_mul 53 2044 den
      _ ≤ (2 ^ 54 - 1) * (2 ^ 2044 * den) := Nat.mul_le_mul_right _ (by norm_num)
  · have hplace : den * 2 ^ 2045 = 2 * (2 ^ 2044 * den) := by
      rw [pow_succ _ 2044, mul_comm den, mul_comm _ 2, mul_assoc]
    rw [hplace, show f64Infinity = 2045 * 2 ^ 52 + 2 ^ 53 by decide, Nat.add_lt_add_iff_left]
    exact divNearestEven_lt_iff_of_top_binade num (Nat.mul_pos (pow_pos two_pos 2044) hden)
  · refine iff_of_false (by have := hr' (by omega); rw [f64Infinity_eq]; omega) (not_lt.mpr ?_)
    calc (2 ^ 54 - 1) * (2 ^ 2044 * den) ≤ 2 ^ 54 * (2 ^ 2044 * den) := Nat.mul_le_mul_right _ (by norm_num)
      _ = 2 ^ (54 + 2044) * den := (two_pow_add_mul 54 2044 den).symm
      _ ≤ 2 ^ (52 + t) * den := Nat.mul_le_mul_right den (pow_le_pow_right₀ one_le_two (by omega))
      _ ≤ num := hlower (by omega)

/-- The bound where overflow begins, in 1.0 and in units. -/
theorem div_units_lt_overflow_iff :
    (num : ℚ) / den * 2 ^ (-1074 : ℤ) < 2 ^ 1024 - 2 ^ 970 ↔ num < (2 ^ 54 - 1) * (2 ^ 2044 * den) := by
  have hlim : (2 : ℚ) ^ 1024 - 2 ^ 970 = ((2 ^ 54 - 1) * 2 ^ 2044) * 2 ^ (-1074 : ℤ) := by
    have hplace : (2 : ℚ) ^ 2044 * 2 ^ (-1074 : ℤ) = 2 ^ 970 := two_pow_add_mul_zpow_neg 970 1074
    have htop : (2 : ℚ) ^ 1024 = 2 ^ 54 * 2 ^ 970 := pow_add 2 54 970
    rw [mul_assoc, hplace, htop, sub_mul, one_mul]
  have hcast : (2 ^ 54 - 1 : ℚ) = (2 ^ 54 - 1 : ℕ) := by norm_num
  rw [hlim, mul_lt_mul_iff_left₀ (zpow_pos two_pos _), div_lt_iff₀ (by exact_mod_cast hden), hcast, mul_assoc]
  exact_mod_cast Iff.rfl

end

/-! ### The packed result -/

theorem f64IsInf_pack_infinity (sign : Bool) : f64IsInf (f64Pack sign f64Infinity) = true := by
  cases sign <;> decide

theorem f64Finite_pack {m : Nat} (hm : m < f64Infinity) (sign : Bool) : f64Finite (f64Pack sign m) := by
  rw [f64Infinity_eq] at hm
  rw [f64Finite, f64Exp_pack (by omega)]
  omega

/-- The sign as a factor, as `f64Real` reads it. -/
abbrev signFactor (sign : Bool) : ℚ := if sign then -1 else 1

theorem abs_signFactor_mul (sign : Bool) (x : ℚ) : |signFactor sign * x| = |x| := by
  cases sign <;> simp

/-- Distances between signed multiples of 2^-1074 are distances in units. -/
theorem abs_signed_units_sub (sign : Bool) (v x : ℚ) :
    |signFactor sign * (v * 2 ^ (-1074 : ℤ)) - signFactor sign * (x * 2 ^ (-1074 : ℤ))| =
      |v - x| * 2 ^ (-1074 : ℤ) := by
  have hu : (0 : ℚ) < 2 ^ (-1074 : ℤ) := zpow_pos two_pos _
  rw [← mul_sub, abs_signFactor_mul, ← sub_mul, abs_mul, abs_of_pos hu]

/-- Below the overflow bound the rounded magnitude is the place and significand packed together. -/
theorem f64RoundUnits_of_lt {num den : Nat}
    (h : roundPlace num den * 2 ^ 52 + roundSignificand num den < f64Infinity) :
    f64RoundUnits num den = roundPlace num den * 2 ^ 52 + roundSignificand num den := by
  rw [f64RoundUnits_eq, Nat.min_eq_left h.le]

theorem unitsToward_pack_round {num den : Nat} (hden : 0 < den) (sign : Bool)
    (h : roundPlace num den * 2 ^ 52 + roundSignificand num den < f64Infinity) :
    (unitsToward sign (f64Pack sign (f64RoundUnits num den)) : ℚ) =
      roundSignificand num den * 2 ^ roundPlace num den := by
  have hm : roundPlace num den * 2 ^ 52 + roundSignificand num den < 2 ^ 63 := by
    rw [f64Infinity_eq] at h
    omega
  rw [f64RoundUnits_of_lt h, unitsToward_pack hm,
    f64Units_pack sign hm (roundSignificand_le hden) (le_roundSignificand hden)]
  push_cast
  rfl

/-- The fraction of a rounded result is even with its significand. -/
theorem f64Frac_pack_round {num den : Nat}
    (h : roundPlace num den * 2 ^ 52 + roundSignificand num den < f64Infinity) (sign : Bool)
    (heven : roundSignificand num den % 2 = 0) : f64Frac (f64Pack sign (f64RoundUnits num den)) % 2 = 0 := by
  rw [f64RoundUnits_of_lt h]
  rw [f64Infinity_eq] at h
  rw [f64Frac_pack (by omega)]
  omega

/-- Settles O40: the result overflows exactly from the bound of R9 on, and below it its value is nearest on the grid of
its last place, hence nearest of all values. -/
theorem roundingIsNearestEvenWithOverflow : Obligations.RoundingIsNearestEvenWithOverflow := by
  unfold Obligations.RoundingIsNearestEvenWithOverflow
  intro sign num den hden
  have hu : (0 : ℚ) < 2 ^ (-1074 : ℤ) := zpow_pos two_pos _
  have hx : (0 : ℚ) ≤ num / den * 2 ^ (-1074 : ℤ) := by positivity
  have hsign : f64Sign (f64Pack sign (f64RoundUnits num den)) = sign :=
    f64Sign_pack (lt_of_le_of_lt (f64RoundUnits_le num den) (by decide)) sign
  have habs : |signFactor sign * ((num : ℚ) / den * 2 ^ (-1074 : ℤ))| = num / den * 2 ^ (-1074 : ℤ) := by
    rw [abs_signFactor_mul, abs_of_nonneg hx]
  have hlimit := (div_units_lt_overflow_iff (num := num) hden).trans
    (roundPlace_add_roundSignificand_lt_iff hden).symm
  refine ⟨fun hpos => ?_, fun hneg => ?_, fun hover => ?_, fun hbelow => ?_⟩
  · rw [hsign]
    cases sign
    · rfl
    · simp only [if_true] at hpos
      linarith
  · rw [hsign]
    cases sign
    · simp only [Bool.false_eq_true, if_false] at hneg
      linarith
    · rfl
  · rw [habs, ← not_lt, hlimit, not_lt] at hover
    rw [f64RoundUnits_eq, Nat.min_eq_right hover]
    exact f64IsInf_pack_infinity sign
  · rw [habs, hlimit] at hbelow
    have hreal := f64Real_eq_unitsToward sign (f64Pack sign (f64RoundUnits num den))
    rw [unitsToward_pack_round hden sign hbelow] at hreal
    refine ⟨f64Finite_pack (f64RoundUnits_of_lt hbelow ▸ hbelow) sign, fun c _ => ?_⟩
    obtain ⟨hle, htie⟩ := roundError_le (num := num) hden sign c
    rw [f64Real_eq_unitsToward sign c, hreal, abs_signed_units_sub, abs_signed_units_sub]
    refine ⟨mul_le_mul_of_nonneg_right hle hu.le, fun heq hne => ?_⟩
    refine f64Frac_pack_round hbelow sign (htie (mul_right_cancel₀ hu.ne' heq) fun hsame => hne ?_)
    rw [hsame]

end Sys2Proof.Machine

/-! SUPPORT. What one instruction can do to the state, said once (`Effect`), and what a step can do around it; the
invariant, the error record, `VALID` and the writers of each register are read off it (spec/10_state.md R32-R53,
spec/60_exceptions.md R281, R282, spec/70_reset_and_hazards.md R320-R322). -/

namespace Sys2Proof.Machine

/-! ### The effect of an instruction -/

/-- The instructions that build an outbound frame: FENC, under its own name or a wire row's (R170, log entry 3). -/
abbrev buildsFrame (i : Instr) : Prop := i = .fenc ∨ isWireRow i = true

/-- TFIELD with a legal `FSEL` (R112). -/
abbrev extractsField (i : Instr) : Prop :=
  i ∈ [Instr.tfieldCurrent, .tfieldVoltage, .tfieldMaxCurrent, .tfieldMaxVoltage, .tfieldVset]

/-- What a well-formed instruction can make of `s`. An RD answers a byte; a WR stores at its register or is ignored; an
operation other than FVER reports an error and writes nothing else, or writes its result; FVER writes `CSUM` and `VALID`
either way. The values that FXENC, FXDEC and TFIELD compute are left open here: `encodeFixed_cases`, `decodeFixed_cases`
and `extractField_cases` give them. -/
inductive Effect (s : State) : Instr → State → Prop
  | read (a : Byte) : Effect s (.rd a) (s.giveByte (busRead s a))
  | storeFrame {a : Byte} (d : Byte) (ha : a.toNat ≤ 0x19) :
      Effect s (.wr a d) { s with frame := s.frame.setIfInBounds a.toNat d, valid := false }
  | storeRxlen (d : Byte) : Effect s (.wr 0x1A#8 d) { s with rxlen := d, valid := false }
  | storePlen (d : Byte) : Effect s (.wr 0x1B#8 d) { s with plen := d }
  | storeAddr (d : Byte) : Effect s (.wr 0x1C#8 d) { s with addr := d }
  | storeCmd (d : Byte) : Effect s (.wr 0x1D#8 d) { s with cmd := d }
  | storeFxLen (d : Byte) : Effect s (.wr 0x22#8 d) { s with fxLen := d }
  | storeFxBytes {a : Byte} (d : Byte) (ha : 0x24 ≤ a.toNat ∧ a.toNat ≤ 0x27) :
      Effect s (.wr a d) { s with fxBytes := s.fxBytes.setIfInBounds (a.toNat - 0x24) d }
  | storeFxIn {a : Byte} (d : Byte) (ha : 0x30 ≤ a.toNat ∧ a.toNat ≤ 0x37) :
      Effect s (.wr a d) { s with fxIn := setByte s.fxIn (a.toNat - 0x30) d }
  | ignored {a : Byte} (d : Byte) (ha : ¬ regWritable a) (hctrl : a ≠ ctrlAddr) : Effect s (.wr a d) s
  | report {i : Instr} {e : ErrCode} (hop : isOperation i = true) (hver : i ≠ .fver)
      (hbuild : buildsFrame i → 22 < s.plen.toNat) (he : e ≠ .noError) : Effect s i (s.raise e)
  | sum : Effect s .csum { s with csum := checksum s.frame, err := 0#3 }
  | build {i : Instr} (cmd : Byte) (hbuild : buildsFrame i) (hplen : s.plen.toNat ≤ 22) :
      Effect s i { s with
        frame := buildFrame s.frame s.addr cmd s.plen.toNat
        csum := checksum (buildFrame s.frame s.addr cmd s.plen.toNat)
        valid := false
        err := 0#3 }
  | reject {e : ErrCode} (hbad : ¬ (s.rxlen = 26#8 ∧ frameByte s.frame 25 = checksum s.frame)) (he : e ≠ .noError) :
      Effect s .fver { s with csum := checksum s.frame, valid := false, err := e.code, errseen := true }
  | accept (hlen : s.rxlen = 26#8) (hsum : frameByte s.frame 25 = checksum s.frame) :
      Effect s .fver { s with csum := checksum s.frame, valid := true, err := 0#3 }
  | encode (n : BitVec 32) :
      Effect s .fxenc { s with fxInt := n, fxBytes := littleEndianBytes n, fxLen := 4#8, err := 0#3 }
  | decode (n : BitVec 32) (x : BitVec 64) : Effect s .fxdec { s with fxInt := n, fxOut := x, err := 0#3 }
  | extract {i : Instr} (hfield : extractsField i) (bs : FxBytes) (len : Byte) (n : BitVec 32) (x : BitVec 64) :
      Effect s i { s with fxBytes := bs, fxLen := len, fxInt := n, fxOut := x, err := 0#3 }

/-- An operation that builds no frame may report an error in any state. -/
theorem Effect.report_of_not_buildsFrame {s : State} {i : Instr} {e : ErrCode} (hop : isOperation i = true)
    (hver : i ≠ .fver) (hbuild : ¬ buildsFrame i) (he : e ≠ .noError) : Effect s i (s.raise e) :=
  .report hop hver (absurd · hbuild) he

theorem byte_eq_ofNat {b : Byte} {n : Nat} (h : b.toNat = n) : b = BitVec.ofNat 8 n := by
  rw [← h, BitVec.ofNat_toNat, BitVec.setWidth_eq]

theorem effect_busStore (s : State) {a : Byte} (d : Byte) (hctrl : a ≠ ctrlAddr) :
    Effect s (.wr a d) (busStore s a d) := by
  unfold busStore
  dsimp only
  split
  next ha => exact .storeFrame d ha
  split
  next ha => exact byte_eq_ofNat ha ▸ .storeRxlen d
  split
  next ha => exact byte_eq_ofNat ha ▸ .storePlen d
  split
  next ha => exact byte_eq_ofNat ha ▸ .storeAddr d
  split
  next ha => exact byte_eq_ofNat ha ▸ .storeCmd d
  split
  next ha => exact byte_eq_ofNat ha ▸ .storeFxLen d
  split
  next ha => exact .storeFxBytes d ha
  split
  next ha => exact .storeFxIn d ha
  next => exact .ignored d (by omega) hctrl

theorem isOperation_of_buildsFrame {i : Instr} (h : buildsFrame i) : isOperation i = true := by
  cases i with
  | rd | wr => exact absurd h (by simp [isWireRow, encodeCommand])
  | _ => rfl

theorem effect_fencWith {i : Instr} (hi : buildsFrame i) (cmd : Byte) (s : State) : Effect s i (fencWith cmd s) := by
  rcases fencWith_cases cmd s with ⟨hplen, h⟩ | ⟨hplen, h⟩ <;> rw [h]
  · have hver : i ≠ .fver := fun hver => absurd (hver ▸ hi) (by decide)
    exact .report (isOperation_of_buildsFrame hi) hver (fun _ => hplen) (by decide)
  · exact .build cmd hi hplen

theorem effect_verifyFrame (s : State) : Effect s .fver (verifyFrame s) := by
  have hlen : s.rxlen = 26#8 ↔ s.rxlen.toNat = 26 := BitVec.toNat_inj.symm
  rcases verifyFrame_cases s with ⟨hrx, h⟩ | ⟨hrx, h⟩ | ⟨hrx, hsum, h⟩ | ⟨hrx, hsum, h⟩ <;> rw [h]
  · exact .reject (e := .length) (fun hok => by have := hlen.mp hok.1; omega) (by decide)
  · exact .reject (e := .checksumMismatch) (fun hok => by have := hlen.mp hok.1; omega) (by decide)
  · exact .reject (e := .checksumMismatch) (fun hok => hsum hok.2) (by decide)
  · exact .accept (hlen.mpr hrx) hsum

theorem effect_encodeFixed (s : State) : Effect s .fxenc (encodeFixed s) := by
  rcases encodeFixed_cases s with h | ⟨-, -, -, -, -, h⟩ <;> rw [h]
  · exact .report_of_not_buildsFrame rfl (by decide) (by decide) (by decide)
  · exact .encode _

theorem effect_decodeFixed (s : State) : Effect s .fxdec (decodeFixed s) := by
  rcases decodeFixed_cases s with ⟨-, h⟩ | ⟨-, h⟩ <;> rw [h]
  · exact .report_of_not_buildsFrame rfl (by decide) (by decide) (by decide)
  · exact .decode _ _

theorem extractsField_operation {i : Instr} (hi : extractsField i) :
    isOperation i = true ∧ i ≠ .fver ∧ ¬ buildsFrame i := by
  revert i
  decide

theorem effect_extractField {i : Instr} (hi : extractsField i) (field : Config.TelemetryField) (s : State) :
    Effect s i (extractField field s) := by
  rcases extractField_cases field s with ⟨-, h⟩ | ⟨-, bs, -, h⟩ <;> rw [h]
  · obtain ⟨hop, hver, hbuild⟩ := extractsField_operation hi
    exact .report_of_not_buildsFrame hop hver hbuild (by decide)
  · exact .extract hi _ _ _ _

/-- A well-formed instruction completes, with one of its effects. -/
theorem exec_effect {i : Instr} (hi : i.wellFormed = true) (s : State) : ∃ t, exec i s = .next t ∧ Effect s i t := by
  cases i with
  | rd a => exact ⟨_, rfl, .read a⟩
  | wr a d =>
    have ha : a ≠ ctrlAddr := by simpa [Instr.wellFormed] using hi
    exact ⟨_, execWr_of_ne_ctrl ha d s, effect_busStore s d ha⟩
  | csum => exact ⟨_, rfl, .sum⟩
  | fenc => exact ⟨_, rfl, effect_fencWith (.inl rfl) _ s⟩
  | fver => exact ⟨_, rfl, effect_verifyFrame s⟩
  | fxenc => exact ⟨_, rfl, effect_encodeFixed s⟩
  | fxdec => exact ⟨_, rfl, effect_decodeFixed s⟩
  | tfieldCurrent | tfieldVoltage | tfieldMaxCurrent | tfieldMaxVoltage | tfieldVset =>
    exact ⟨_, rfl, effect_extractField (by decide) _ s⟩
  | tfieldReserved5 | tfieldReserved67 | reservedOp6 | reservedOp7 =>
    exact ⟨_, rfl, .report_of_not_buildsFrame rfl (by decide) (by decide) (by decide)⟩
  | wireRemote | wireOutput | wireSetMaxV | wireSetV | wireSetMaxI | wireRead =>
    exact ⟨_, rfl, effect_fencWith (.inr rfl) _ s⟩

theorem Effect.of_exec {i : Instr} {s t : State} (hi : i.wellFormed = true) (h : exec i s = .next t) :
    Effect s i t := by
  obtain ⟨t', ht', heffect⟩ := exec_effect hi s
  obtain rfl : t' = t := by simpa [ht'] using h
  exact heffect

/-! ### The instruction of a step -/

theorem isWireRow_decodeBus (w : BusWord) : isWireRow (decodeBus w) = false := by
  unfold decodeBus decodeCtrl decodeTfield
  repeat' split
  all_goals rfl

theorem wellFormed_of_isOperation {i : Instr} (h : isOperation i = true) : i.wellFormed = true := by
  cases i with
  | rd | wr => cases h
  | _ => rfl

theorem wellFormed_decodeBus (w : BusWord) : (decodeBus w).wellFormed = true := by
  cases hwe : wordWe w with
  | false => simp [decodeBus, hwe, Instr.wellFormed]
  | true =>
    rcases decodeBus_of_write hwe with hop | ⟨a, d, ha, hwr⟩
    · exact wellFormed_of_isOperation hop
    · simpa [hwr, Instr.wellFormed] using ha

/-- R128: the row of the code in `CMD` does what FENC does. -/
theorem exec_decodeCommand {s : State} {i : Instr} (h : decodeCommand s.cmd = some i) : exec i s = exec .fenc s := by
  have hfenc : exec .fenc s = .next (fencWith s.cmd s) := rfl
  unfold decodeCommand at h
  split at h
  case h_7 => cases h
  all_goals
    next hc =>
      cases h
      rw [hfenc, byte_eq_ofNat hc]
      rfl

/-- R128: naming a FENC by the code in `CMD` changes no effect. -/
theorem exec_decodeAt (w : BusWord) (s : State) : exec (decodeAt s.cmd w) s = exec (decodeBus w) s := by
  rcases decodeAt_cases s.cmd w with h | ⟨hfenc, i, hcode, hrow⟩
  · rw [h]
  · rw [hrow, hfenc, exec_decodeCommand hcode]

/-- A step waits, gives one access the effect of its instruction, or resets. -/
theorem step_cases {s t : State} (h : step s = .next t) :
    (s.pending = [] ∧ t = s) ∨
    (∃ w rest, s.pending = .access w :: rest ∧ Effect (s.setPending rest) (decodeBus w) t) ∨
    (∃ w rest, s.pending = .reset w :: rest ∧ t = resetStep w (s.setPending rest)) := by
  rcases hs : s.pending with _ | ⟨w | w, rest⟩
  · exact .inl ⟨rfl, by simpa [step_wait hs] using h.symm⟩
  · refine .inr (.inl ⟨w, rest, rfl, .of_exec (wellFormed_decodeBus w) ?_⟩)
    rw [← h, step_access hs]
    exact (exec_decodeAt w (s.setPending rest)).symm
  · exact .inr (.inr ⟨w, rest, rfl, by simpa [step_reset hs] using h.symm⟩)

theorem resetStep_sameRegisters (w : Option BusWord) (s : State) : State.reset.sameRegisters (resetStep w s) := by
  unfold resetStep
  split
  · rfl
  · split <;> rfl

/-! ### The error record -/

/-- R281, R282: an instruction reports an error and sets `ERRSEEN`, or succeeds and leaves `ERRSEEN`, or is no operation
and leaves both. -/
theorem Effect.error_record {s t : State} {i : Instr} (h : Effect s i t) :
    (∃ e : ErrCode, e ≠ .noError ∧ t.err = e.code ∧ t.errseen = true) ∨
    (t.err = 0#3 ∧ t.errseen = s.errseen) ∨
    (isOperation i = false ∧ t.err = s.err ∧ t.errseen = s.errseen) := by
  cases h with
  | report _ _ _ he | reject _ he => exact .inl ⟨_, he, rfl, rfl⟩
  | sum | build | accept | encode | decode | extract => exact .inr (.inl ⟨rfl, rfl⟩)
  | read | storeFrame | storeRxlen | storePlen | storeAddr | storeCmd | storeFxLen | storeFxBytes | storeFxIn
  | ignored => exact .inr (.inr ⟨rfl, rfl, rfl⟩)

theorem Effect.errseen_mono {s t : State} {i : Instr} (h : Effect s i t) (hs : s.errseen = true) :
    t.errseen = true := by
  rcases h.error_record with ⟨e, -, -, hseen⟩ | ⟨-, hseen⟩ | ⟨-, -, hseen⟩
  · exact hseen
  · rw [hseen, hs]
  · rw [hseen, hs]

theorem resetStep_errseen (w : Option BusWord) (s : State) : (resetStep w s).errseen = false := by
  rw [resetStep_sameRegisters w s]
  rfl

/-- Settles O11: an instruction's error record, and the kinds of step. -/
theorem errseenIsStickyUntilReset : Obligations.ErrseenIsStickyUntilReset := by
  refine ⟨fun i s t hi hexec => ?_, fun s t hstep hseen hno => ?_, fun s w rest hs => ?_, rfl⟩
  · rcases (Effect.of_exec (wellFormed_of_isOperation hi) hexec).error_record with
      ⟨e, he, herr, hseen⟩ | ⟨herr, hseen⟩ | ⟨hnot, -, -⟩
    · have hcode : t.err ≠ 0#3 := herr ▸ mt ErrCode.code_eq_zero.mp he
      exact ⟨fun _ => hseen, fun hzero => absurd hzero hcode⟩
    · exact ⟨fun hne => absurd herr hne, fun _ => hseen⟩
    · rw [hi] at hnot
      cases hnot
  · rcases step_cases hstep with ⟨-, rfl⟩ | ⟨w, rest, -, heffect⟩ | ⟨w, rest, hs, -⟩
    · exact hseen
    · exact heffect.errseen_mono hseen
    · have := hno (.reset w) (by rw [hs]; rfl)
      cases this
  · exact ⟨_, step_reset hs, resetStep_errseen w _⟩

/-! ### The verified buffer -/

/-- `i` is a FVER that finds the length 26 and a checksum-valid buffer (R175). -/
abbrev verifiesBuffer (s : State) (i : Instr) : Prop :=
  i = .fver ∧ s.rxlen = 26#8 ∧ frameByte s.frame 25 = checksum s.frame

/-- `i` is no FVER, no successful FENC and no WR to `FRAME` or `RXLEN` (R40). -/
abbrev leavesBuffer (s : State) (i : Instr) : Prop :=
  i ≠ .fver ∧ ¬ (buildsFrame i ∧ s.plen.toNat ≤ 22) ∧ ∀ a d, i = .wr a d → 0x1A < a.toNat

theorem leavesBuffer_of_operation {s : State} {i : Instr} (hop : isOperation i = true) (hver : i ≠ .fver)
    (hbuild : buildsFrame i → 22 < s.plen.toNat) : leavesBuffer s i :=
  ⟨hver, fun hb => absurd hb.2 (not_le.mpr (hbuild hb.1)), by rintro a d rfl; cases hop⟩

theorem leavesBuffer_wr {s : State} {a : Byte} (d : Byte) (ha : 0x1A < a.toNat) : leavesBuffer s (.wr a d) :=
  ⟨nofun, fun hb => absurd hb.1 (by simp [isWireRow, encodeCommand]), by rintro _ _ ⟨⟩; exact ha⟩

/-- R40: `VALID` stands after an instruction that verified the buffer, or that found it 1 and left the buffer and
`RXLEN` alone. -/
theorem Effect.valid_iff {s t : State} {i : Instr} (h : Effect s i t) :
    t.valid = true ↔ verifiesBuffer s i ∨ s.valid = true ∧ leavesBuffer s i := by
  have kept (hi : leavesBuffer s i) : s.valid = true ↔ verifiesBuffer s i ∨ s.valid = true ∧ leavesBuffer s i :=
    ⟨fun hv => .inr ⟨hv, hi⟩, fun hr => hr.elim (fun hok => absurd hok.1 hi.1) And.left⟩
  have cleared (hver : ¬ verifiesBuffer s i) (hi : ¬ leavesBuffer s i) :
      false = true ↔ verifiesBuffer s i ∨ s.valid = true ∧ leavesBuffer s i :=
    iff_of_false nofun fun hr => hr.elim hver fun hold => hi hold.2
  cases h with
  | accept hlen hsum => exact iff_of_true rfl (.inl ⟨rfl, hlen, hsum⟩)
  | reject hbad => exact cleared (fun hok => hbad hok.2) fun hi => hi.1 rfl
  | build _ hbuild hplen =>
    exact cleared (fun hok => absurd (hok.1 ▸ hbuild) (by decide)) fun hi => hi.2.1 ⟨hbuild, hplen⟩
  | storeFrame _ ha => exact cleared nofun fun hi => absurd (hi.2.2 _ _ rfl) (by omega)
  | storeRxlen => exact cleared nofun fun hi => absurd (hi.2.2 _ _ rfl) (by decide)
  | read => exact kept ⟨nofun, fun hb => absurd hb.1 (by simp [isWireRow, encodeCommand]), nofun⟩
  | storePlen | storeAddr | storeCmd | storeFxLen => exact kept (leavesBuffer_wr _ (by decide))
  | storeFxBytes _ ha | storeFxIn _ ha | ignored _ ha => exact kept (leavesBuffer_wr _ (by omega))
  | report hop hver hbuild => exact kept (leavesBuffer_of_operation hop hver hbuild)
  | sum | encode | decode => exact kept (leavesBuffer_of_operation rfl nofun fun hb => absurd hb (by decide))
  | extract hfield =>
    obtain ⟨hop, hver, hbuild⟩ := extractsField_operation hfield
    exact kept (leavesBuffer_of_operation hop hver (absurd · hbuild))

/-- Where `VALID` stands after an instruction, the instruction wrote neither the buffer nor `RXLEN`. -/
theorem Effect.buffer_eq_of_valid {s t : State} {i : Instr} (h : Effect s i t) (hvalid : t.valid = true) :
    t.frame = s.frame ∧ t.rxlen = s.rxlen := by
  cases h with
  | storeFrame | storeRxlen | build | reject => cases hvalid
  | read | storePlen | storeAddr | storeCmd | storeFxLen | storeFxBytes | storeFxIn | ignored | report | sum | accept
  | encode | decode | extract => exact ⟨rfl, rfl⟩

theorem buildsFrame_decodeBus_iff (w : BusWord) : buildsFrame (decodeBus w) ↔ decodeBus w = .fenc := by
  simp [isWireRow_decodeBus]

theorem resetStep_valid (w : Option BusWord) (s : State) : (resetStep w s).valid = false := by
  rw [resetStep_sameRegisters w s]
  rfl

/-- Settles O14, by the kinds of step: a wait keeps `VALID`, an access gives it its instruction's effect, a reset
clears it. -/
theorem validHoldsExactlyWhileTheVerificationStands : Obligations.ValidHoldsExactlyWhileTheVerificationStands := by
  refine ⟨rfl, fun s t hstep => ?_⟩
  rcases step_cases hstep with ⟨hs, rfl⟩ | ⟨w, rest, hs, heffect⟩ | ⟨w, rest, hs, rfl⟩
  · simp [hs]
  · have hvalid := heffect.valid_iff
    rw [verifiesBuffer, leavesBuffer, buildsFrame_decodeBus_iff] at hvalid
    simpa [hs] using hvalid
  · simp [hs, resetStep_valid]

/-! ### The invariant -/

/-- The invariant speaks of the registers alone. -/
theorem State.Inv.of_sameRegisters {s t : State} (h : s.Inv) (hst : s.sameRegisters t) : t.Inv := by
  rw [hst]
  exact ⟨h.err_legal, h.err_seen, h.valid_len, h.valid_sum⟩

/-- Settles O9: no error and no verified buffer at reset. -/
theorem resetMeetsTheInvariant : Obligations.ResetMeetsTheInvariant := ⟨by decide, nofun, nofun, nofun⟩

/-- An instruction keeps the invariant: its error record is legal, and a buffer `VALID` after it was verified by it or
before it. -/
theorem Effect.inv {s t : State} {i : Instr} (h : Effect s i t) (hs : s.Inv) : t.Inv := by
  have herror : t.err ≠ 7#3 ∧ (t.err ≠ 0#3 → t.errseen = true) := by
    rcases h.error_record with ⟨e, -, herr, hseen⟩ | ⟨herr, -⟩ | ⟨-, herr, hseen⟩
    · exact ⟨herr ▸ e.code_ne_seven, fun _ => hseen⟩
    · exact ⟨herr ▸ by decide, absurd herr⟩
    · rw [herr, hseen]
      exact ⟨hs.err_legal, hs.err_seen⟩
  have hbuffer (hvalid : t.valid = true) : t.rxlen = 26#8 ∧ checksumValid t.frame = true := by
    obtain ⟨hframe, hrxlen⟩ := h.buffer_eq_of_valid hvalid
    rw [hframe, hrxlen]
    rcases h.valid_iff.mp hvalid with ⟨-, hlen, hsum⟩ | ⟨hold, -⟩
    · exact ⟨hlen, beq_iff_eq.mpr hsum⟩
    · exact ⟨hs.valid_len hold, hs.valid_sum hold⟩
  exact ⟨herror.1, herror.2, fun hvalid => (hbuffer hvalid).1, fun hvalid => (hbuffer hvalid).2⟩

/-- Settles O8, by the kinds of step: a wait changes nothing, an access has the effect of its instruction, a reset
leaves the reset registers. -/
theorem everyStepKeepsTheInvariant : Obligations.EveryStepKeepsTheInvariant := by
  intro s t hinv hstep
  rcases step_cases hstep with ⟨-, rfl⟩ | ⟨w, rest, -, heffect⟩ | ⟨w, rest, -, rfl⟩
  · exact hinv
  · exact heffect.inv (hinv.of_sameRegisters rfl)
  · exact resetMeetsTheInvariant.of_sameRegisters (resetStep_sameRegisters w _)

/-! ### The writers of each register -/

/-- Settles O17: the register an effect changes tells which effect it is. -/
theorem eachRegisterChangesOnlyByItsWriters : Obligations.EachRegisterChangesOnlyByItsWriters := by
  intro i s t hi hexec
  cases Effect.of_exec hi hexec with
  | read | storeRxlen | storePlen | storeAddr | storeCmd | storeFxLen | ignored => simp
  | @storeFrame a _ ha =>
    have hlow : a.toNat ≤ 0x1A := by omega
    simp [ha, hlow]
  | storeFxBytes _ ha | storeFxIn _ ha => simp [ha]
  | report hop => simp [hop]
  | sum | reject | accept | encode | decode => simp [isOperation]
  | build _ hbuild =>
    have hwriter : i = .fenc ∨ isWireRow i = true := hbuild
    simp [isOperation_of_buildsFrame hbuild, hwriter]
  | extract hfield => simp [(extractsField_operation hfield).1, hfield]

/-! ### Reset values and the `STATUS` byte -/

theorem frameByte_reset (i : Nat) : frameByte State.reset.frame i = 0#8 := by
  simp [frameByte, State.reset]

theorem fxByte_reset (i : Nat) : fxByte State.reset.fxBytes i = 0#8 := by
  simp [fxByte, State.reset]

theorem busRead_reset (a : Byte) : busRead State.reset a = 0#8 := by
  have hstatus : statusByte State.reset = 0#8 := by decide
  have hreply : replyByte State.reset = 0#8 := by decide
  unfold busRead
  simp only [frameByte_reset, fxByte_reset, hstatus, hreply]
  simp [State.reset]

/-- Settles O19: every register is zero, so every address reads zero. -/
theorem resetValues : Obligations.ResetValues :=
  ⟨frameByte_reset, rfl, rfl, rfl, rfl, rfl, rfl, rfl, rfl, rfl, fxByte_reset, rfl, rfl, rfl, busRead_reset⟩

/-- R38: the fields of the `STATUS` byte. -/
theorem statusByte_fields (s : State) :
    (statusByte s).extractLsb' 0 3 = s.err ∧ (statusByte s).getLsbD 3 = false ∧ (statusByte s).getLsbD 4 = s.valid ∧
    (statusByte s).getLsbD 5 = false ∧ (statusByte s).getLsbD 6 = false ∧ (statusByte s).getLsbD 7 = s.errseen ∧
    (statusByte s).toNat = s.err.toNat + 16 * s.valid.toNat + 128 * s.errseen.toNat := by
  unfold statusByte
  generalize s.err = e, s.valid = v, s.errseen = seen
  revert e v seen
  decide

/-- Settles O23: the fields of the byte, and a WR to its address stores nothing. -/
theorem statusByteLayout : Obligations.StatusByteLayout := by
  intro s
  obtain ⟨herr, h3, hvalid, h5, h6, hseen, hnat⟩ := statusByte_fields s
  exact ⟨statusByte s, rfl, herr, h3, hvalid, h5, h6, hseen, hnat, fun _ => rfl, busRead_reset _⟩

end Sys2Proof.Machine

/-! SUPPORT. The register map as a host access meets it: what an RD answers, which addresses read zero, and which WR
store nothing (spec/20_memory.md R72-R74). -/

namespace Sys2Proof.Machine

theorem exec_rd (s : State) (a : Byte) : exec (.rd a) s = .next { s with returned := s.returned ++ [busRead s a] } :=
  rfl

/-- R72: behind a reserved address stands no register to read. -/
theorem busRead_of_regReserved (s : State) {a : Byte} (h : regReserved a) : busRead s a = 0#8 := by
  unfold busRead
  repeat rw [if_neg (by omega)]

/-- R72, R73: the bus stores at the writable registers only. -/
theorem busStore_of_not_regWritable (s : State) {a : Byte} (d : Byte) (h : ¬ regWritable a) : busStore s a d = s := by
  unfold busStore
  repeat rw [if_neg (by omega)]

theorem exec_wr_of_not_regWritable (s : State) {a : Byte} (d : Byte) (h : ¬ regWritable a) (hctrl : a ≠ 0x20#8) :
    exec (.wr a d) s = .next s := by
  rw [execWr_of_ne_ctrl hctrl, busStore_of_not_regWritable s d h]

/-- Settles O25: no reserved or read-only address is writable or `CTRL`, and the reserved ones and `CTRL` read zero. -/
theorem reservedAndReadOnlyAccesses : Obligations.ReservedAndReadOnlyAccesses := by
  refine ⟨fun s a hreserved => ⟨?_, fun d => ?_⟩, fun s a d hreadOnly => ?_, fun _ => rfl⟩
  · rw [exec_rd, busRead_of_regReserved s hreserved]
  · exact exec_wr_of_not_regWritable s d (by omega) (by bv_omega)
  · exact exec_wr_of_not_regWritable s d (by bv_omega) (by bv_omega)

end Sys2Proof.Machine

/-! SUPPORT. The host bus word and the `CTRL` byte by their fields (spec/30_encoding.md R101, R110), and the decoder, the
encoder and the opcode table's fixed bits read field by field (R102-R104, R111-R113, R121). -/

namespace Sys2Proof.Machine

/-! ### The fields of a bus word -/

theorem getLsbD_mkWord (we : Bool) (a d : Byte) (i : Nat) :
    (mkWord we a d).getLsbD i =
      if i < 8 then d.getLsbD i else if i < 16 then a.getLsbD (i - 8) else decide (i = 16) && we := by
  rw [mkWord, BitVec.getLsbD_setWidth, BitVec.getLsbD_append, BitVec.getLsbD_append, BitVec.getLsbD_ofBool]
  grind

@[simp] theorem wordWe_mkWord (we : Bool) (a d : Byte) : wordWe (mkWord we a d) = we := by
  rw [wordWe, getLsbD_mkWord]
  rfl

@[simp] theorem wordA_mkWord (we : Bool) (a d : Byte) : wordA (mkWord we a d) = a := by
  apply BitVec.eq_of_getLsbD_eq
  intro i hi
  rw [wordA, BitVec.getLsbD_extractLsb', getLsbD_mkWord]
  grind

@[simp] theorem wordD_mkWord (we : Bool) (a d : Byte) : wordD (mkWord we a d) = d := by
  apply BitVec.eq_of_getLsbD_eq
  intro i hi
  rw [wordD, BitVec.getLsbD_extractLsb', getLsbD_mkWord]
  grind

/-- A bus word is its three fields (R101). -/
theorem mkWord_fields (w : BusWord) : mkWord (wordWe w) (wordA w) (wordD w) = w := by
  apply BitVec.eq_of_getLsbD_eq
  intro i hi
  rw [getLsbD_mkWord, wordWe, wordA, wordD, BitVec.getLsbD_extractLsb', BitVec.getLsbD_extractLsb']
  grind

theorem mkWord_inj {we we' : Bool} {a a' d d' : Byte} :
    mkWord we a d = mkWord we' a' d' ↔ we = we' ∧ a = a' ∧ d = d' := by
  refine ⟨fun h => ⟨?_, ?_, ?_⟩, fun ⟨hwe, ha, hd⟩ => hwe ▸ ha ▸ hd ▸ rfl⟩
  · simpa using congrArg wordWe h
  · simpa using congrArg wordA h
  · simpa using congrArg wordD h

theorem mkWord_and (we we' : Bool) (a a' d d' : Byte) :
    mkWord we a d &&& mkWord we' a' d' = mkWord (we && we') (a &&& a') (d &&& d') := by
  apply BitVec.eq_of_getLsbD_eq
  intro i hi
  simp only [BitVec.getLsbD_and, getLsbD_mkWord]
  grind

theorem mkWord_eq_append (we : Bool) (a d : Byte) : mkWord we a d = (BitVec.ofBool we ++ a ++ d : BitVec 17) := by
  rw [mkWord, BitVec.append_assoc]
  rfl

/-- A mask that keeps `WE` and `A` fixes both, and fixes `D` as far as it keeps `D`. -/
theorem and_mask_eq_mkWord_iff (w : BusWord) (m : Byte) (we : Bool) (a d : Byte) :
    w &&& mkWord true 0xFF#8 m = mkWord we a d ↔ wordWe w = we ∧ wordA w = a ∧ wordD w &&& m = d := by
  have hA : wordA w &&& 0xFF#8 = wordA w := BitVec.and_allOnes
  conv_lhs => rw [← mkWord_fields w, mkWord_and, mkWord_inj, Bool.and_true, hA]

/-! ### The fields of a `CTRL` byte -/

theorem ctrlOp_mkCtrl (op fsel : BitVec 3) : ctrlOp (mkCtrl op fsel) = op := by
  revert op fsel
  decide

theorem ctrlFsel_mkCtrl (op fsel : BitVec 3) : ctrlFsel (mkCtrl op fsel) = fsel := by
  revert op fsel
  decide

/-- R113: all but bits 3 and 7 of a byte are its two fields. -/
theorem and_fieldBits_eq_mkCtrl (c : Byte) : c &&& 0x77#8 = mkCtrl (ctrlOp c) (ctrlFsel c) := by
  revert c
  decide

/-- R110, R113: a byte selects by `OP`, and by `FSEL` for TFIELD only. -/
theorem decodeCtrl_congr {c c' : Byte} (hop : ctrlOp c = ctrlOp c')
    (hfsel : ctrlOp c = 5#3 → ctrlFsel c = ctrlFsel c') : decodeCtrl c = decodeCtrl c' := by
  unfold decodeCtrl
  rw [← hop]
  split
  case h_6 h5 => rw [hfsel (BitVec.eq_of_toNat_eq h5)]
  all_goals rfl

theorem decodeCtrl_eq_of_fields (c : Byte) : decodeCtrl c = decodeCtrl (mkCtrl (ctrlOp c) (ctrlFsel c)) :=
  decodeCtrl_congr (ctrlOp_mkCtrl _ _).symm fun _ => (ctrlFsel_mkCtrl _ _).symm

/-! ### The decoder on a word's fields -/

theorem decodeBus_eq_rd_iff (w : BusWord) (a : Byte) : decodeBus w = .rd a ↔ wordWe w = false ∧ wordA w = a := by
  cases hwe : wordWe w with
  | false => simp [decodeBus, hwe]
  | true =>
    refine iff_of_false (fun h => ?_) nofun
    rcases decodeBus_of_write hwe with hop | ⟨_, _, -, hwr⟩
    · rw [h] at hop
      cases hop
    · rw [h] at hwr
      cases hwr

theorem decodeBus_eq_wr_iff (w : BusWord) {a : Byte} (d : Byte) (ha : a ≠ ctrlAddr) :
    decodeBus w = .wr a d ↔ wordWe w = true ∧ wordA w = a ∧ wordD w = d := by
  unfold decodeBus
  split
  next hwe =>
    split
    next hctrl =>
      have hop := isOperation_decodeCtrl (wordD w)
      refine iff_of_false (fun h => ?_) fun h => ha (h.2.1 ▸ hctrl)
      rw [h] at hop
      cases hop
    next => simp [hwe]
  next hwe => simp [hwe]

theorem decodeBus_eq_operation_iff (w : BusWord) {i : Instr} (hi : isOperation i = true) :
    decodeBus w = i ↔ wordWe w = true ∧ wordA w = ctrlAddr ∧ decodeCtrl (wordD w) = i := by
  have hrd (a : Byte) : Instr.rd a ≠ i := by rintro rfl; cases hi
  have hwr (a d : Byte) : Instr.wr a d ≠ i := by rintro rfl; cases hi
  unfold decodeBus
  split
  next hwe =>
    split
    next hctrl => simp [hwe, hctrl]
    next hctrl => simp [hctrl, hwr]
  next hwe => simp [hwe, hrd]

/-! ### The opcode table's rows -/

/-- The operation rows that are bus words: all but the wire rows (R111, R112, R113). -/
def busOperations : List Instr :=
  [.csum, .fenc, .fver, .fxenc, .fxdec, .tfieldCurrent, .tfieldVoltage, .tfieldMaxCurrent, .tfieldMaxVoltage,
    .tfieldVset, .tfieldReserved5, .tfieldReserved67, .reservedOp6, .reservedOp7]

theorem mem_busOperations {i : Instr} (hop : isOperation i = true) (hwire : isWireRow i = false) :
    i ∈ busOperations := by
  cases i with
  | rd | wr => cases hop
  | wireRemote | wireOutput | wireSetMaxV | wireSetV | wireSetMaxI | wireRead => cases hwire
  | _ => decide

/-- An operation row fixes `WE`, `A` and bits of the `CTRL` byte other than 3 and 7. -/
theorem operationRow_fields : ∀ i ∈ busOperations,
    rowMask i = mkWord true 0xFF#8 (wordD (rowMask i)) ∧ rowMatch i = mkWord true ctrlAddr (wordD (rowMatch i)) ∧
    wordD (rowMask i) = 0x77#8 &&& wordD (rowMask i) := by
  decide

/-- On the bytes that are `OP` and `FSEL` alone, an operation row's fixed bits are the decoder's choice. -/
theorem mkCtrl_fits_iff : ∀ i ∈ busOperations, ∀ op fsel : BitVec 3,
    mkCtrl op fsel &&& wordD (rowMask i) = wordD (rowMatch i) ↔ decodeCtrl (mkCtrl op fsel) = i := by
  decide

theorem ctrlByte_fits_iff {i : Instr} (hi : i ∈ busOperations) (c : Byte) :
    c &&& wordD (rowMask i) = wordD (rowMatch i) ↔ decodeCtrl c = i := by
  obtain ⟨-, -, hbits⟩ := operationRow_fields i hi
  rw [hbits, ← BitVec.and_assoc, and_fieldBits_eq_mkCtrl, decodeCtrl_eq_of_fields c]
  exact mkCtrl_fits_iff i hi _ _

theorem rowFits_operation_iff {i : Instr} (hop : isOperation i = true) (hwire : isWireRow i = false) (w : BusWord) :
    rowFits i w ↔ decodeBus w = i := by
  have hi := mem_busOperations hop hwire
  obtain ⟨hmask, hmatch, -⟩ := operationRow_fields i hi
  rw [rowFits, hmask, hmatch, and_mask_eq_mkWord_iff, ctrlByte_fits_iff hi, decodeBus_eq_operation_iff w hop]

theorem rowFits_rd_iff (a : Byte) (w : BusWord) : rowFits (.rd a) w ↔ decodeBus w = .rd a := by
  have hmask : rowMask (.rd a) = mkWord true 0xFF#8 0#8 := by rfl
  have hmatch : rowMatch (.rd a) = mkWord false a 0#8 := by
    have hA : a &&& 0xFF#8 = a := BitVec.and_allOnes
    rw [← (Laws.RowEncoding.rd a).1, hmask, encode, mkWord_and, hA]
    rfl
  rw [rowFits, hmask, hmatch, and_mask_eq_mkWord_iff, decodeBus_eq_rd_iff]
  simp

theorem rowFits_wr_iff {a : Byte} (d : Byte) (ha : a ≠ ctrlAddr) (w : BusWord) :
    rowFits (.wr a d) w ↔ decodeBus w = .wr a d := by
  have hmask : rowMask (.wr a d) = mkWord true 0xFF#8 0xFF#8 := by rfl
  have hmatch : rowMatch (.wr a d) = mkWord true a d :=
    (Laws.RowEncoding.wr a d).1.symm.trans BitVec.and_allOnes
  have hD : wordD w &&& 0xFF#8 = wordD w := BitVec.and_allOnes
  rw [rowFits, hmask, hmatch, and_mask_eq_mkWord_iff, hD, decodeBus_eq_wr_iff w d ha]

/-- Settles O4, row by row: a row's fixed bits are conditions on the word's fields, and they are those under which the
decoder answers the row. -/
theorem everyBusWordFitsExactlyItsDecodedRow : Obligations.EveryBusWordFitsExactlyItsDecodedRow := by
  refine fun w => ⟨wellFormed_decodeBus w, isWireRow_decodeBus w, fun i hwf hwire => ?_⟩
  cases hop : isOperation i with
  | true => exact rowFits_operation_iff hop hwire w
  | false =>
    cases i with
    | rd a => exact rowFits_rd_iff a w
    | wr a d => exact rowFits_wr_iff d (by simpa [Instr.wellFormed] using hwf) w
    | _ => cases hop

/-! ### Encodings -/

theorem decodeBus_encode {i : Instr} (hwf : i.wellFormed = true) (hwire : isWireRow i = false) :
    decodeBus (encode i) = i := by
  cases i with
  | rd a => exact (decodeBus_eq_rd_iff _ a).mpr ⟨wordWe_mkWord _ _ _, wordA_mkWord _ _ _⟩
  | wr a d =>
    have ha : a ≠ ctrlAddr := by simpa [Instr.wellFormed] using hwf
    exact (decodeBus_eq_wr_iff _ d ha).mpr ⟨wordWe_mkWord _ _ _, wordA_mkWord _ _ _, wordD_mkWord _ _ _⟩
  | wireRemote | wireOutput | wireSetMaxV | wireSetV | wireSetMaxI | wireRead => cases hwire
  | _ => rfl

theorem encode_of_isWireRow {i : Instr} (h : isWireRow i = true) : encode i = encode .fenc := by
  cases i with
  | wireRemote | wireOutput | wireSetMaxV | wireSetV | wireSetMaxI | wireRead => rfl
  | _ => cases h

theorem decodeCommand_of_encodeCommand {i : Instr} {c : Byte} (h : encodeCommand i = some c) :
    decodeCommand c = some i := by
  cases i with
  | wireRemote | wireOutput | wireSetMaxV | wireSetV | wireSetMaxI | wireRead => cases h; rfl
  | _ => cases h

/-- A word that is no FENC is named without regard to `CMD`. -/
theorem decodeAt_of_ne_fenc (cmd : Byte) {w : BusWord} (h : decodeBus w ≠ .fenc) : decodeAt cmd w = decodeBus w :=
  (decodeAt_cases cmd w).resolve_right fun hfenc => h hfenc.1

theorem decodeAt_of_fenc (cmd : Byte) {w : BusWord} (h : decodeBus w = .fenc) :
    decodeAt cmd w = (decodeCommand cmd).getD .fenc := by
  rw [decodeAt, h]

/-- Settles O5: the decoder gives back every instruction that is a bus word of its own, and `CMD` tells apart FENC and
the wire rows, which share a word. -/
theorem decodeOfEncodeIsTheInstruction : Obligations.DecodeOfEncodeIsTheInstruction := by
  intro i cmd hwf hcmd
  have hfenc : decodeBus (encode .fenc) = .fenc := decodeBus_encode rfl rfl
  unfold Instr.presentedWith at hcmd
  cases hcode : encodeCommand i with
  | some c =>
    obtain rfl : cmd = c := by simpa [hcode] using hcmd
    have hwire : isWireRow i = true := by rw [isWireRow, hcode]; rfl
    rw [encode_of_isWireRow hwire, decodeAt_of_fenc cmd hfenc, decodeCommand_of_encodeCommand hcode]
    rfl
  | none =>
    have hwire : isWireRow i = false := by rw [isWireRow, hcode]; rfl
    have hbus := decodeBus_encode hwf hwire
    by_cases hi : i = .fenc
    · subst hi
      have hnone : decodeCommand cmd = none := by simpa [encodeCommand] using hcmd
      rw [decodeAt_of_fenc cmd hfenc, hnone]
      rfl
    · rw [decodeAt_of_ne_fenc cmd (hbus.symm ▸ hi), hbus]

/-- Settles O2: the decoder computes each row. -/
theorem wordsOfTheSpecDecodeToTheirRows : Obligations.WordsOfTheSpecDecodeToTheirRows :=
  ⟨rfl, rfl, rfl, rfl, rfl, rfl, rfl, rfl, rfl⟩

/-! ### The operation of a `CTRL` byte -/

theorem fieldValue_cases (f : BitVec 3) :
    f = 0#3 ∨ f = 1#3 ∨ f = 2#3 ∨ f = 3#3 ∨ f = 4#3 ∨ f = 5#3 ∨ f = 6#3 ∨ f = 7#3 := by
  revert f
  decide

theorem performTfield_eq_exec (f : BitVec 3) (s : State) : performTfield f s = exec (decodeTfield f) s := by
  rcases fieldValue_cases f with rfl | rfl | rfl | rfl | rfl | rfl | rfl | rfl
  all_goals rfl

/-- R110, R262: a WR to `CTRL` is the operation its byte selects. -/
theorem exec_wr_ctrl (c : Byte) (s : State) : exec (.wr ctrlAddr c) s = exec (decodeCtrl c) s := by
  have hperform : exec (.wr ctrlAddr c) s = performCtrl c s := rfl
  rw [hperform]
  unfold performCtrl decodeCtrl
  rcases fieldValue_cases (ctrlOp c) with h | h | h | h | h | h | h | h
  all_goals rw [h]
  case inr.inr.inr.inr.inr.inl => exact performTfield_eq_exec _ s
  all_goals rfl

/-- Settles O3, from the decoder on a word's fields and the meaning of a WR to `CTRL`. -/
theorem rdAndWrWordsCarryTheirFields : Obligations.RdAndWrWordsCarryTheirFields := by
  have hread (a d : Byte) : (0#1 ++ a ++ d : BitVec 17) = mkWord false a d := (mkWord_eq_append false a d).symm
  have hwrite (a d : Byte) : (1#1 ++ a ++ d : BitVec 17) = mkWord true a d := (mkWord_eq_append true a d).symm
  refine ⟨fun a d => ⟨?_, (hread a 0#8).symm⟩, fun a d ha => ⟨?_, (hwrite a d).symm⟩, fun d => ⟨?_, exec_wr_ctrl d⟩⟩
  · rw [hread, decodeBus_eq_rd_iff, wordWe_mkWord, wordA_mkWord]
    exact ⟨rfl, rfl⟩
  · rw [hwrite]
    exact decodeBus_encode (i := .wr a d) (by simpa [Instr.wellFormed, ctrlAddr] using ha) rfl
  · rw [hwrite, decodeBus_eq_operation_iff _ (isOperation_decodeCtrl d), wordWe_mkWord, wordA_mkWord, wordD_mkWord]
    exact ⟨rfl, rfl, rfl⟩

/-- R113: the bytes that select a reserved encoding. -/
abbrev ctrlReserved (c : Byte) : Prop :=
  ctrlOp c = 6#3 ∨ ctrlOp c = 7#3 ∨ (ctrlOp c = 5#3 ∧ 5 ≤ (ctrlFsel c).toNat)

theorem decodeTfield_of_five_le {f : BitVec 3} (h : 5 ≤ f.toNat) :
    decodeTfield f = .tfieldReserved5 ∨ decodeTfield f = .tfieldReserved67 := by
  revert f
  decide

theorem exec_decodeCtrl_of_ctrlReserved {c : Byte} (h : ctrlReserved c) (s : State) :
    exec (decodeCtrl c) s = .next (s.raise .illegalOp) := by
  rcases h with hop | hop | ⟨hop, hfsel⟩
  · have hrow : decodeCtrl c = .reservedOp6 := by rw [decodeCtrl, hop]; rfl
    rw [hrow]
    rfl
  · have hrow : decodeCtrl c = .reservedOp7 := by rw [decodeCtrl, hop]; rfl
    rw [hrow]
    rfl
  · have hrow : decodeCtrl c = decodeTfield (ctrlFsel c) := by rw [decodeCtrl, hop]; rfl
    rw [hrow]
    rcases decodeTfield_of_five_le hfsel with h | h
    all_goals rw [h]; rfl

/-- Settles O6: the decoder reads the two fields alone, and the reserved rows report `ILLEGAL_OP`. -/
theorem ctrlDontCareBitsAndReservedEncodings : Obligations.CtrlDontCareBitsAndReservedEncodings := by
  refine ⟨fun c c' => decodeCtrl_congr, fun c s hreserved => ⟨exec_decodeCtrl_of_ctrlReserved hreserved s, ?_⟩⟩
  exact (exec_wr_ctrl c s).trans (exec_decodeCtrl_of_ctrlReserved hreserved s)

/-! ### FENC and the wire rows -/

theorem exec_of_encodeCommand {i : Instr} {c : Byte} (h : encodeCommand i = some c) (s : State) :
    exec i s = .next (fencWith c s) := by
  cases i with
  | wireRemote | wireOutput | wireSetMaxV | wireSetV | wireSetMaxI | wireRead => cases h; rfl
  | _ => cases h

theorem fencWith_of_le {s : State} (h : s.plen.toNat ≤ 22) (cmd : Byte) :
    fencWith cmd s =
      { s with
        frame := buildFrame s.frame s.addr cmd s.plen.toNat
        csum := checksum (buildFrame s.frame s.addr cmd s.plen.toNat)
        valid := false
        err := 0#3 } :=
  ((fencWith_cases cmd s).resolve_left fun hover => absurd h (not_le.mpr hover.1)).2

theorem fencWith_of_lt {s : State} (h : 22 < s.plen.toNat) (cmd : Byte) : fencWith cmd s = s.raise .encoding :=
  ((fencWith_cases cmd s).resolve_right fun hbuilt => absurd h (not_lt.mpr hbuilt.1)).2

/-- Settles O7: the name of a FENC does not change its effect, and FENC puts `CMD` at offset 2. -/
theorem commandCodesHaveNoMeaningOfTheirOwn : Obligations.CommandCodesHaveNoMeaningOfTheirOwn := by
  intro s w rest hs
  have hstep : step s = exec (decodeBus w) (s.setPending rest) :=
    (step_access hs).trans (exec_decodeAt w (s.setPending rest))
  refine ⟨hstep, fun hfenc hplen => ⟨fencWith s.cmd (s.setPending rest), by rw [hstep, hfenc]; rfl, ?_⟩⟩
  rw [fencWith_of_le (s := s.setPending rest) hplen]
  exact frameByte_buildFrame _ _ _ _ (by decide)

theorem checksumValid_buildFrame (f : Frame) (addr cmd : Byte) (plen : Nat) :
    checksumValid (buildFrame f addr cmd plen) = true :=
  beq_iff_eq.mpr (frameByte_buildFrame_last f addr cmd plen)

theorem toList_getElem_eq_frameByte (f : Frame) {k : Nat} (hk : k < f.toList.length) : f.toList[k] = frameByte f k := by
  rw [Vector.length_toList] at hk
  rw [frameByte_lt f hk, Vector.getElem_toList]

/-- R114-R118: the frame before its checksum, as a list. -/
theorem buildFrame_take_25 (f : Frame) (addr cmd : Byte) {plen : Nat} (h : plen ≤ 22) :
    (buildFrame f addr cmd plen).toList.take 25 =
      [0xAA#8, addr, cmd] ++ (f.toList.drop 3).take plen ++ List.replicate (22 - plen) 0#8 := by
  apply List.ext_getElem
  · simp only [List.length_take, List.length_append, List.length_drop, List.length_replicate, List.length_cons,
      List.length_nil, Vector.length_toList]
    omega
  · intro k hk _
    have hk25 : k < 25 := hk.trans_le (List.length_take_le ..)
    rw [List.getElem_take, toList_getElem_eq_frameByte, frameByte_buildFrame f addr cmd plen hk25]
    rcases k with _ | _ | _ | k
    · rfl
    · rfl
    · rfl
    · simp only [List.cons_append, List.nil_append, List.getElem_cons_succ, List.getElem_append,
        List.getElem_take, List.getElem_drop, toList_getElem_eq_frameByte, List.getElem_replicate]
      grind

/-- Settles O36: a wire row is FENC with the row's code, whose frame is known byte by byte. -/
theorem wireRowsCarryTheirCommandCode : Obligations.WireRowsCarryTheirCommandCode := by
  intro p hp
  have hrow : encodeCommand p.1 = some p.2.1 ∧
      (∃ r ∈ Config.wireCommands, r.code = p.2.1 ∧ r.payload.len = p.2.2) ∧ p.2.2 ≤ 22 := by
    revert p
    decide
  obtain ⟨hcode, htable, hlen⟩ := hrow
  refine ⟨htable, fun s => ⟨fun hplen => ?_, fun hplen => ?_, fun hplen => ?_, fun hcmd => ?_⟩⟩
  all_goals rw [exec_of_encodeCommand hcode]
  · rw [fencWith_of_lt hplen]
    rfl
  · rw [fencWith_of_le hplen]
    refine ⟨_, rfl, rfl, rfl, rfl, (frameByte_buildFrame_last ..).symm, checksumValid_buildFrame .., ?_⟩
    have hbyte {k : Nat} (hk : k < 25) := frameByte_buildFrame s.frame s.addr p.2.1 s.plen.toNat hk
    refine ⟨hbyte (by decide), hbyte (by decide), hbyte (by decide), fun k hk₁ hk₂ => ?_, fun k hk₁ hk₂ => ?_⟩
    all_goals
      rw [hbyte (by omega)]
      grind
  · rw [fencWith_of_le (hplen ▸ hlen)]
    exact ⟨_, rfl, hplen ▸ buildFrame_take_25 _ _ _ (hplen ▸ hlen)⟩
  · rw [← hcmd]
    rfl

end Sys2Proof.Machine

/-! SUPPORT. Runs of host accesses (spec/30_encoding.md R135): what the bus words of a `WRN` and of an `RDN` line do, and
a 64-bit register as its eight bytes (spec/20_memory.md R76). -/

namespace Sys2Proof.Machine

/-! ### A 64-bit register as its bytes -/

theorem getLsbD_setByte (x : BitVec 64) (k : Nat) (d : Byte) {i : Nat} (hi : i < 64) :
    (setByte x k d).getLsbD i = if 8 * k ≤ i ∧ i < 8 * k + 8 then d.getLsbD (i - 8 * k) else x.getLsbD i := by
  have hones (j : Nat) : (0xFF#64).getLsbD j = decide (j < 8) := by
    have h : 0xFF#64 = (BitVec.allOnes 8).setWidth 64 := by decide
    rw [h, BitVec.getLsbD_setWidth, BitVec.getLsbD_allOnes]
    grind
  have hd : ¬ i - 8 * k < 8 → d.getLsbD (i - 8 * k) = false := fun h => BitVec.getLsbD_of_ge _ _ (not_lt.mp h)
  rw [setByte, BitVec.getLsbD_or, BitVec.getLsbD_and, BitVec.getLsbD_not, BitVec.getLsbD_shiftLeft,
    BitVec.getLsbD_shiftLeft, BitVec.getLsbD_setWidth, hones]
  grind

/-- Byte `k` of a value (R76). -/
abbrev byteAt (x : BitVec 64) (k : Nat) : Byte := x.extractLsb' (8 * k) 8

theorem byteAt_eq_ofNat_div (x : BitVec 64) (k : Nat) : byteAt x k = BitVec.ofNat 8 (x.toNat / 2 ^ (8 * k)) := by
  rw [← Nat.shiftRight_eq_div_pow]
  rfl

theorem byteAt_setByte (x : BitVec 64) (k : Nat) (d : Byte) {j : Nat} (hj : j < 8) :
    byteAt (setByte x k d) j = if j = k then d else byteAt x j := by
  apply BitVec.eq_of_getLsbD_eq
  intro i hi
  rw [BitVec.getLsbD_extractLsb', getLsbD_setByte x k d (by omega)]
  split
  next hin =>
    obtain rfl : j = k := by omega
    simp [hi]
  next hout =>
    rw [if_neg (by omega), BitVec.getLsbD_extractLsb']

theorem eq_of_byteAt_eq {x y : BitVec 64} (h : ∀ j < 8, byteAt x j = byteAt y j) : x = y := by
  apply BitVec.eq_of_getLsbD_eq
  intro i hi
  have hbyte := congrArg (BitVec.getLsbD · (i % 8)) (h (i / 8) (by omega))
  simpa [BitVec.getLsbD_extractLsb', Nat.mod_lt, Nat.div_add_mod] using hbyte

/-- The bytes `ds` written at byte `k` and upwards (R135). -/
def setBytes (x : BitVec 64) (k : Nat) : List Byte → BitVec 64
  | [] => x
  | d :: ds => setBytes (setByte x k d) (k + 1) ds

theorem byteAt_setBytes (x : BitVec 64) (k : Nat) (ds : List Byte) {j : Nat} (hj : j < 8) :
    byteAt (setBytes x k ds) j = if k ≤ j then ds.getD (j - k) (byteAt x j) else byteAt x j := by
  induction ds generalizing x k with
  | nil => simp [setBytes]
  | cons d ds ih =>
    rw [setBytes, ih, byteAt_setByte x k d hj]
    rcases Nat.lt_trichotomy j k with h | rfl | h
    · grind
    · grind
    · have hsub : j - k = (j - (k + 1)) + 1 := by omega
      grind

/-- Writing all eight bytes of `v` gives `v`. -/
theorem setBytes_all (x v : BitVec 64) : setBytes x 0 ((List.range 8).map (byteAt v)) = v := by
  apply eq_of_byteAt_eq
  intro j hj
  rw [byteAt_setBytes x 0 _ hj]
  simp [hj]

/-! ### Runs of accesses -/

/-- `n` steps lead from `s` to `t`. -/
def RunsTo (n : Nat) (s t : State) : Prop := Host.Core.run Sys2Proof.core n s = .next t

theorem RunsTo.zero (s : State) : RunsTo 0 s s := rfl

theorem run_succ_eq_next_iff {M : Host.Core} {n : Nat} {s u : M.State} :
    M.run (n + 1) s = .next u ↔ ∃ t, M.step s = .next t ∧ M.run n t = .next u := by
  rw [Host.Core.run]
  cases M.step s with
  | next t => simp
  | fault | refused => simp

theorem runsTo_succ_iff {n : Nat} {s u : State} : RunsTo (n + 1) s u ↔ ∃ t, step s = .next t ∧ RunsTo n t u :=
  run_succ_eq_next_iff (M := Sys2Proof.core)

theorem RunsTo.trans {m n : Nat} {s t u : State} (hst : RunsTo m s t) (htu : RunsTo n t u) : RunsTo (m + n) s u := by
  induction m generalizing s with
  | zero =>
    obtain rfl : s = t := by injection hst
    rwa [Nat.zero_add]
  | succ m ih =>
    obtain ⟨s', hstep, hrest⟩ := runsTo_succ_iff.mp hst
    rw [Nat.succ_add]
    exact runsTo_succ_iff.mpr ⟨s', hstep, ih hrest⟩

theorem step_wrWord {s : State} {a d : Byte} {rest : List HostEvent} (ha : a ≠ ctrlAddr)
    (h : s.pending = .access (wrWord a d) :: rest) : step s = .next (busStore (s.setPending rest) a d) := by
  have hbus : decodeBus (wrWord a d) = .wr a d :=
    (decodeBus_eq_wr_iff _ d ha).mpr ⟨wordWe_mkWord .., wordA_mkWord .., wordD_mkWord ..⟩
  rw [step_access h, decodeAt_of_ne_fenc _ (by rw [hbus]; nofun), hbus, execWr_of_ne_ctrl ha]

theorem step_rdWord {s : State} {a : Byte} {rest : List HostEvent} (h : s.pending = .access (rdWord a) :: rest) :
    step s = .next (s.withPort rest (s.returned ++ [busRead s a])) := by
  rw [step_access h, rdWord, decodeAt_of_read _ (wordWe_mkWord ..), wordA_mkWord, exec_rd]
  rfl

/-- A run of reads answers one byte each and changes no register (R260). -/
theorem runsTo_rdWords (as : List Byte) {s : State} {rest : List HostEvent}
    (h : s.pending = (as.map rdWord).map HostEvent.access ++ rest) :
    RunsTo as.length s (s.withPort rest (s.returned ++ as.map (busRead s))) := by
  induction as generalizing s with
  | nil =>
    have h : s.pending = rest := h
    subst h
    rw [List.map_nil, List.append_nil]
    exact .zero s
  | cons a as ih =>
    have hbytes : s.returned ++ (a :: as).map (busRead s) = s.returned ++ [busRead s a] ++ as.map (busRead s) := by simp
    rw [hbytes]
    exact runsTo_succ_iff.mpr ⟨_, step_rdWord h, ih (s := s.withPort _ _) rfl⟩

/-- The address of byte `k` of `FX_IN` (R71). -/
abbrev fxInAddr (k : Nat) : Byte := BitVec.ofNat 8 (0x30 + k)

theorem fxInAddr_toNat {k : Nat} (hk : k < 8) : (fxInAddr k).toNat = 0x30 + k := by
  rw [BitVec.toNat_ofNat]
  omega

theorem fxInAddr_ne_ctrlAddr {k : Nat} (hk : k < 8) : fxInAddr k ≠ ctrlAddr := by
  intro h
  have hnat := congrArg BitVec.toNat h
  rw [fxInAddr_toNat hk, ctrlAddr, BitVec.toNat_ofNat] at hnat
  omega

theorem busRead_fxInAddr (s : State) {k : Nat} (hk : k < 8) : busRead s (fxInAddr k) = byteAt s.fxIn k := by
  unfold busRead
  simp only [fxInAddr_toNat hk]
  repeat rw [if_neg (by omega)]
  rw [if_pos (by omega), Nat.add_sub_cancel_left]

theorem busStore_fxInAddr (s : State) {k : Nat} (hk : k < 8) (d : Byte) :
    busStore s (fxInAddr k) d = { s with fxIn := setByte s.fxIn k d } := by
  unfold busStore
  simp only [fxInAddr_toNat hk]
  repeat rw [if_neg (by omega)]
  rw [if_pos (by omega), Nat.add_sub_cancel_left]

/-- The bus words of a `WRN` line to `FX_IN+k` store its bytes and change nothing else (R135). -/
theorem runsTo_wrBytes_fxIn (ds : List Byte) {k : Nat} (hk : k + ds.length ≤ 8) {s : State} {rest : List HostEvent}
    (h : s.pending = (wrBytes (fxInAddr k) ds).map HostEvent.access ++ rest) :
    RunsTo ds.length s { s with fxIn := setBytes s.fxIn k ds, pending := rest } := by
  induction ds generalizing s k with
  | nil =>
    have h : s.pending = rest := h
    subst h
    exact .zero s
  | cons d ds ih =>
    rw [List.length_cons] at hk
    have hk8 : k < 8 := by omega
    have hnext : fxInAddr k + 1#8 = fxInAddr (k + 1) := (BitVec.ofNat_add ..).symm
    rw [wrBytes, hnext] at h
    refine runsTo_succ_iff.mpr ⟨_, step_wrWord (fxInAddr_ne_ctrlAddr hk8) h, ?_⟩
    rw [busStore_fxInAddr _ hk8]
    exact ih (by omega) rfl

/-- Settles O28: eight writes leave the bytes of the value in `FX_IN`, and eight reads answer them. -/
theorem wrnThenRdnOfFxInMovesTheValue : Obligations.WrnThenRdnOfFxInMovesTheValue := by
  intro s v rest hs
  have hwrites : (HostLine.wrn (.fxIn 0) 8 v.toNat).expand = wrBytes (fxInAddr 0) ((List.range 8).map (byteAt v)) := by
    rw [funext (byteAt_eq_ofNat_div v)]
    rfl
  have hreads : (HostLine.rdn (.fxIn 0) 8).expand = ((List.range 8).map fxInAddr).map rdWord := by decide
  rw [hwrites, hreads, List.map_append, List.append_assoc] at hs
  have hwritten := runsTo_wrBytes_fxIn _ (k := 0) (by simp) hs
  rw [setBytes_all] at hwritten
  have hread := hwritten.trans (runsTo_rdWords _ rfl)
  refine ⟨_, hread, rfl, congrArg (s.returned ++ ·) ?_⟩
  rw [List.map_map]
  refine List.map_congr_left fun k hk => ?_
  rw [← byteAt_eq_ofNat_div]
  exact busRead_fxInAddr _ (List.mem_range.mp hk)

end Sys2Proof.Machine

/-! SUPPORT. The checksum generator (spec/40_checksum.md R150-R154): the checksum as a sum of 25 bytes, in the numbers and
in the bytes, and what a changed byte does to it. -/

namespace Sys2Proof.Machine

/-! ### The checksum as a sum -/

/-- The sum over the list of offsets and the sum over their range are the same. -/
theorem checksum_toNat_eq_sum_mod (f : Frame) :
    (checksum f).toNat = (∑ i ∈ Finset.range 25, (frameByte f i).toNat) % 256 := checksum_toNat f

/-- R150 without the final reduction: a byte keeps a number modulo 256. -/
theorem checksum_eq_ofNat_sum (f : Frame) :
    checksum f = BitVec.ofNat 8 (∑ i ∈ Finset.range 25, (frameByte f i).toNat) := by
  apply BitVec.eq_of_toNat_eq
  rw [checksum_toNat_eq_sum_mod, BitVec.toNat_ofNat]

/-- R150 in the arithmetic of bytes. -/
theorem checksum_eq_sum (f : Frame) : checksum f = ∑ i ∈ Finset.range 25, frameByte f i := by
  rw [checksum_eq_ofNat_sum, ← BitVec.natCast_eq_ofNat, Nat.cast_sum]
  simp only [BitVec.natCast_eq_ofNat, BitVec.ofNat_toNat, BitVec.setWidth_eq]

theorem decodeCtrl_of_ctrlOp_zero {c : Byte} (h : ctrlOp c = 0#3) : decodeCtrl c = .csum := by
  rw [decodeCtrl, h]
  rfl

theorem exec_csum (s : State) : exec .csum s = .next { s with csum := checksum s.frame, err := 0#3 } := rfl

/-- Settles O30: OP 0 selects CSUM, which writes the checksum and reports `NONE`. -/
theorem csumWritesTheModulo256Sum : Obligations.CsumWritesTheModulo256Sum :=
  ⟨fun _ => decodeCtrl_of_ctrlOp_zero, fun s => ⟨_, exec_csum s, checksum_toNat_eq_sum_mod s.frame, rfl, rfl⟩⟩

/-! ### Adders of other widths and orders -/

/-- An adder of `n` bits that drops carries ends with the exact sum, reduced to `n` bits (R151). -/
theorem foldl_add_setWidth (n : ℕ) (l : List Byte) (start : ℕ) :
    l.foldl (fun (acc : BitVec n) b => acc + b.setWidth n) (BitVec.ofNat n start) =
      BitVec.ofNat n (start + (l.map BitVec.toNat).sum) := by
  induction l generalizing start with
  | nil => rfl
  | cons b l ih =>
    rw [List.foldl_cons, ← BitVec.ofNat_toNat, ← BitVec.ofNat_add, ih, List.map_cons, List.sum_cons, Nat.add_assoc]

/-- The bytes the checksum covers, as a list. -/
theorem toList_take_25 (f : Frame) : f.toList.take 25 = (List.range 25).map (frameByte f) := by
  apply List.ext_getElem
  · simp
  · intro k hk _
    rw [List.getElem_take, toList_getElem_eq_frameByte, List.getElem_map, List.getElem_range]

/-- 25 bytes of at most 255 each (R151). -/
theorem frame_sum_le (f : Frame) : ∑ i ∈ Finset.range 25, (frameByte f i).toNat ≤ 6375 :=
  Finset.sum_le_card_nsmul _ _ 255 fun i _ => Nat.le_of_lt_succ (frameByte f i).isLt

/-- The exact sum of the covered bytes is the same in every order. -/
theorem sum_toNat_of_perm {f : Frame} {l : List Byte} (h : l.Perm (f.toList.take 25)) :
    (l.map BitVec.toNat).sum = ∑ i ∈ Finset.range 25, (frameByte f i).toNat := by
  rw [(h.map BitVec.toNat).sum_eq, toList_take_25, List.map_map]
  rfl

/-- Settles O31: the exact sum does not depend on the order, and reducing it to `n` bits first keeps its low 8 bits. -/
theorem anyAdderOfEightBitsOrMoreGivesTheChecksum : Obligations.AnyAdderOfEightBitsOrMoreGivesTheChecksum := by
  refine fun f => ⟨frame_sum_le f, fun l hl n hn => ?_⟩
  rw [foldl_add_setWidth, Nat.zero_add, BitVec.setWidth_ofNat_of_le hn, sum_toNat_of_perm hl, checksum_eq_ofNat_sum]

/-! ### Changes of single bytes -/

theorem frameByte_set (f : Frame) {i : ℕ} (hi : i < 26) (b : Byte) :
    frameByte (f.setIfInBounds i b) = Function.update (frameByte f) i b := by
  funext k
  by_cases hk : k = i
  · subst hk
    rw [frameByte_set_self f hi, Function.update_self]
  · rw [frameByte_set_ne f (Ne.symm hk), Function.update_of_ne hk]

/-- A new byte at a summed offset moves the checksum by the difference. -/
theorem checksum_set (f : Frame) {i : ℕ} (hi : i < 25) (b : Byte) :
    checksum (f.setIfInBounds i b) = checksum f + (b - frameByte f i) := by
  have hmem : i ∈ Finset.range 25 := Finset.mem_range.mpr hi
  rw [checksum_eq_sum, checksum_eq_sum, frameByte_set f (hi.trans (by decide)), Finset.sum_update_of_mem hmem,
    Finset.sum_eq_add_sum_sdiff_singleton_of_mem hmem (frameByte f)]
  ring

theorem checksumValid_iff (f : Frame) : checksumValid f = true ↔ frameByte f 25 = checksum f := beq_iff_eq

/-- Changing one byte of a checksum-valid buffer breaks the check (R154). -/
theorem checksumValid_set_of_ne {f : Frame} (hf : checksumValid f = true) {i : ℕ} (hi : i < 26) {b : Byte}
    (hb : b ≠ frameByte f i) : checksumValid (f.setIfInBounds i b) = false := by
  rw [checksumValid_iff] at hf
  rw [Bool.eq_false_iff, ne_eq, checksumValid_iff]
  intro hset
  rcases Nat.lt_succ_iff_lt_or_eq.mp hi with hsummed | rfl
  · rw [frameByte_set_ne f (Nat.ne_of_lt hsummed), checksum_set f hsummed, hf] at hset
    exact hb (sub_eq_zero.mp (left_eq_add.mp hset))
  · rw [frameByte_set_self f hi, checksum_set_last, ← hf] at hset
    exact hb hset

/-- Opposite changes of two summed bytes cancel (R154). -/
theorem checksum_set_add_sub (f : Frame) {i j : ℕ} (hi : i < 25) (hj : j < 25) (hij : i ≠ j) (d : Byte) :
    checksum ((f.setIfInBounds i (frameByte f i + d)).setIfInBounds j (frameByte f j - d)) = checksum f := by
  rw [checksum_set _ hj, checksum_set f hi, frameByte_set_ne f hij]
  ring

/-- Settles O32: a summed byte moves the sum by its change and the last byte is compared with it; two opposite changes
leave the sum and the last byte alone. -/
theorem singleByteChangesAreDetected : Obligations.SingleByteChangesAreDetected := by
  refine fun f hf => ⟨fun i hi b hb => checksumValid_set_of_ne hf hi hb, fun i hi j hj hij d => ?_⟩
  rw [checksumValid_iff, frameByte_set_ne _ (by omega), frameByte_set_ne _ (by omega),
    checksum_set_add_sub f (by omega) (by omega) hij]
  exact (checksumValid_iff f).mp hf

end Sys2Proof.Machine

/-! SUPPORT. The frame codec (spec/41_frame_codec.md): the fields of the `REPLY` view, the frame FENC builds, the three
outcomes of FVER, and the two performed one after the other. -/

namespace Sys2Proof.Machine

/-! ### The `REPLY` view -/

theorem busRead_reply (s : State) : busRead s 0x21#8 = replyByte s := rfl

theorem replyByte_of_not_valid {s : State} (h : s.valid = false) : replyByte s = 0#8 := by
  rw [replyByte, h]
  rfl

/-- R180: the fields of the `REPLY` byte of a verified frame. -/
theorem replyByte_fields {s : State} (h : s.valid = true) :
    (replyByte s).getLsbD 7 = true ∧ (replyByte s).getLsbD 6 = false ∧ (replyByte s).getLsbD 5 = false ∧
    (replyByte s).getLsbD 0 = isStatus s.frame ∧ (replyByte s).getLsbD 1 = isOn s.frame ∧
    (replyByte s).extractLsb' 2 3 = sclass (frameByte s.frame 4) := by
  rw [replyByte, if_pos h, Config.statusCodeOfs]
  generalize sclass (frameByte s.frame 4) = cls, isOn s.frame = on, isStatus s.frame = marked
  revert cls on marked
  decide

theorem isStatus_iff (f : Frame) : isStatus f = true ↔ frameByte f 3 = 0x12#8 := beq_iff_eq

theorem isOn_iff (f : Frame) : isOn f = true ↔ frameByte f 9 ≠ 0#8 := bne_iff_ne

/-- Settles O26: the RD answers 0x00 without a verified frame, and the fields of the byte with one. -/
theorem replyViewOfTheVerifiedFrame : Obligations.ReplyViewOfTheVerifiedFrame := by
  refine fun s => ⟨replyByte s, exec_rd s 0x21#8, replyByte_of_not_valid, fun hvalid => ?_⟩
  obtain ⟨h7, h6, h5, hstatus, hon, hclass⟩ := replyByte_fields hvalid
  exact ⟨h7, h6, h5, hstatus ▸ isStatus_iff s.frame, hon ▸ isOn_iff s.frame, hclass⟩

/-- R182: class 1 is SUCCESS alone. -/
theorem sclass_eq_one_iff (b : Byte) : sclass b = 1#3 ↔ b = 0x80#8 := by
  unfold sclass
  split
  next hsuccess => exact iff_of_true rfl hsuccess
  next hother => exact iff_of_false (by split_ifs <;> decide) hother

theorem successTest_iff (s : State) : successTest s = true ↔ s.valid = true ∧ frameByte s.frame 4 = 0x80#8 := by
  rw [successTest, Bool.and_eq_true, beq_iff_eq]
  rfl

/-- R184: the test as the host reads it off the `REPLY` byte. -/
theorem successTest_iff_replyByte (s : State) :
    successTest s = true ↔ (replyByte s).getLsbD 7 = true ∧ (replyByte s).extractLsb' 2 3 = 1#3 := by
  rw [successTest_iff]
  cases hvalid : s.valid with
  | false => simp [replyByte_of_not_valid hvalid]
  | true =>
    obtain ⟨h7, -, -, -, -, hclass⟩ := replyByte_fields hvalid
    rw [h7, hclass, sclass_eq_one_iff]

/-- Settles O27: `RVALID` and `SCLASS` 1 say what the test asks, and the test does not read offset 3. -/
theorem successTestIsRvalidWithSclassOne : Obligations.SuccessTestIsRvalidWithSclassOne := by
  refine fun s => ⟨busRead_reply s ▸ successTest_iff_replyByte s, fun d => ?_⟩
  rw [Bool.eq_iff_iff, successTest_iff, successTest_iff, frameByte_set_ne _ (by decide)]

/-! ### FENC -/

theorem decodeCtrl_of_ctrlOp_one {c : Byte} (h : ctrlOp c = 1#3) : decodeCtrl c = .fenc := by
  rw [decodeCtrl, h]
  rfl

theorem exec_fenc (s : State) : exec .fenc s = .next (fencWith s.cmd s) := rfl

theorem exec_fenc_of_le {s : State} (h : s.plen.toNat ≤ 22) :
    exec .fenc s = .next { s with
      frame := buildFrame s.frame s.addr s.cmd s.plen.toNat
      csum := checksum (buildFrame s.frame s.addr s.cmd s.plen.toNat)
      valid := false
      err := 0#3 } := by
  rw [exec_fenc, fencWith_of_le h]

section
variable (f : Frame) (addr cmd : Byte) {plen : ℕ}

/-- R118: the payload bytes stay where they were staged. -/
theorem frameByte_buildFrame_payload (hplen : plen ≤ 22) {k : ℕ} (h₁ : 3 ≤ k) (h₂ : k < 3 + plen) :
    frameByte (buildFrame f addr cmd plen) k = frameByte f k := by
  rw [frameByte_buildFrame f addr cmd plen (by omega), if_neg (by omega), if_neg (by omega), if_neg (by omega),
    if_pos h₂]

/-- R118: zeros follow the payload up to offset 24. -/
theorem frameByte_buildFrame_fill {k : ℕ} (h₁ : 3 + plen ≤ k) (h₂ : k ≤ 24) :
    frameByte (buildFrame f addr cmd plen) k = 0#8 := by
  rw [frameByte_buildFrame f addr cmd plen (by omega), if_neg (by omega), if_neg (by omega), if_neg (by omega),
    if_neg (by omega)]

end

/-- Settles O33: OP 1 selects FENC, which reports `ENCODING` or leaves a frame known byte by byte. -/
theorem fencBuildsTheOutboundFrame : Obligations.FencBuildsTheOutboundFrame := by
  refine ⟨fun c => decodeCtrl_of_ctrlOp_one, fun s => ⟨fun hplen => ?_, fun hplen => ?_⟩⟩
  · rw [exec_fenc, fencWith_of_lt hplen]
    rfl
  · have hlast := frameByte_buildFrame_last s.frame s.addr s.cmd s.plen.toNat
    have hhead {k : ℕ} (hk : k < 25) := frameByte_buildFrame s.frame s.addr s.cmd s.plen.toNat hk
    refine ⟨_, exec_fenc_of_le hplen, hhead (by decide), hhead (by decide), hhead (by decide), ?_, ?_, ?_, hlast.symm,
      rfl, rfl, rfl⟩
    · exact fun k => frameByte_buildFrame_payload s.frame s.addr s.cmd hplen
    · exact fun k => frameByte_buildFrame_fill s.frame s.addr s.cmd
    · exact (congrArg BitVec.toNat hlast).trans (checksum_toNat_eq_sum_mod _)

/-- A frame is the bytes the checksum covers and the byte at its offset. -/
theorem toList_eq_take_append (f : Frame) : f.toList = f.toList.take 25 ++ [frameByte f 25] := by
  have hlen : f.toList.length = 26 := Vector.length_toList
  calc f.toList = f.toList.take 26 := (List.take_of_length_le hlen.le).symm
    _ = f.toList.take 25 ++ [f.toList[25]] := List.take_succ_eq_append_getElem (by omega)
    _ = f.toList.take 25 ++ [frameByte f 25] := by rw [toList_getElem_eq_frameByte]

theorem checksum_eq_ofNat_sum_take (f : Frame) :
    checksum f = BitVec.ofNat 8 ((f.toList.take 25).map BitVec.toNat).sum := by
  rw [sum_toNat_of_perm (List.Perm.refl _), checksum_eq_ofNat_sum]

/-- R119: the zero fill adds nothing to the checksum. -/
theorem checksum_buildFrame (f : Frame) (addr cmd : Byte) {plen : ℕ} (hplen : plen ≤ 22) :
    checksum (buildFrame f addr cmd plen) =
      BitVec.ofNat 8 (([0xAA#8, addr, cmd] ++ (f.toList.drop 3).take plen).map BitVec.toNat).sum := by
  rw [checksum_eq_ofNat_sum_take, buildFrame_take_25 f addr cmd hplen, List.map_append, List.sum_append,
    List.map_replicate, List.sum_replicate]
  rfl

/-- Settles O34: the built frame is its first 25 bytes and their checksum. -/
theorem fencMeetsTheEncodeContract : Obligations.FencMeetsTheEncodeContract := by
  intro s p hp hplen hstaged
  rw [← hplen] at hp hstaged ⊢
  refine ⟨_, exec_fenc_of_le hp, ?_⟩
  rw [toList_eq_take_append, frameByte_buildFrame_last, checksum_buildFrame _ _ _ hp, buildFrame_take_25 _ _ _ hp,
    hstaged]

/-- R331: the built frame takes the staged payload alone from the old one. -/
theorem buildFrame_congr {f g : Frame} (addr cmd : Byte) {plen : ℕ}
    (h : ∀ k, 3 ≤ k → k < 3 + plen → frameByte f k = frameByte g k) :
    buildFrame f addr cmd plen = buildFrame g addr cmd plen := by
  have hsummed : ∀ k < 25, frameByte (buildFrame f addr cmd plen) k = frameByte (buildFrame g addr cmd plen) k := by
    intro k hk
    rw [frameByte_buildFrame f addr cmd plen hk, frameByte_buildFrame g addr cmd plen hk]
    split_ifs with h0 h1 h2 hpayload
    · rfl
    · rfl
    · rfl
    · exact h k (by omega) hpayload
    · rfl
  refine frame_ext fun k hk => ?_
  rcases Nat.lt_succ_iff_lt_or_eq.mp hk with hk | rfl
  · exact hsummed k hk
  · rw [frameByte_buildFrame_last, frameByte_buildFrame_last, checksum_congr hsummed]

/-- Settles O35: both states build the same frame, whose checksum both hold. -/
theorem fencIgnoresUnstagedBytes : Obligations.FencIgnoresUnstagedBytes := by
  intro s s' haddr hcmd hplen hle hstaged
  have hframe : buildFrame s.frame s.addr s.cmd s.plen.toNat = buildFrame s'.frame s'.addr s'.cmd s'.plen.toNat := by
    rw [buildFrame_congr s.addr s.cmd hstaged, haddr, hcmd, hplen]
  exact ⟨_, _, exec_fenc_of_le hle, exec_fenc_of_le (hplen ▸ hle), hframe, congrArg checksum hframe⟩

/-! ### FVER -/

theorem decodeCtrl_of_ctrlOp_two {c : Byte} (h : ctrlOp c = 2#3) : decodeCtrl c = .fver := by
  rw [decodeCtrl, h]
  rfl

theorem exec_fver (s : State) : exec .fver s = .next (verifyFrame s) := rfl

section
variable {s : State}

theorem verifyFrame_of_long (h : 26 < s.rxlen.toNat) :
    verifyFrame s = { s with csum := checksum s.frame, valid := false, err := 4#3, errseen := true } := by
  rcases verifyFrame_cases s with ⟨-, hs⟩ | ⟨hlen, -⟩ | ⟨hlen, -⟩ | ⟨hlen, -⟩
  · exact hs
  all_goals omega

theorem verifyFrame_of_short (h : s.rxlen.toNat < 26) :
    verifyFrame s = { s with csum := checksum s.frame, valid := false, err := 2#3, errseen := true } := by
  rcases verifyFrame_cases s with ⟨hlen, -⟩ | ⟨-, hs⟩ | ⟨hlen, -⟩ | ⟨hlen, -⟩
  case inr.inl => exact hs
  all_goals omega

theorem verifyFrame_of_mismatch (h : s.rxlen.toNat = 26) (hsum : frameByte s.frame 25 ≠ checksum s.frame) :
    verifyFrame s = { s with csum := checksum s.frame, valid := false, err := 2#3, errseen := true } := by
  rcases verifyFrame_cases s with ⟨hlen, -⟩ | ⟨hlen, -⟩ | ⟨-, -, hs⟩ | ⟨-, hok, -⟩
  · omega
  · omega
  · exact hs
  · exact absurd hok hsum

theorem verifyFrame_of_match (h : s.rxlen.toNat = 26) (hsum : frameByte s.frame 25 = checksum s.frame) :
    verifyFrame s = { s with csum := checksum s.frame, valid := true, err := 0#3 } := by
  rcases verifyFrame_cases s with ⟨hlen, -⟩ | ⟨hlen, -⟩ | ⟨-, hbad, -⟩ | ⟨-, -, hs⟩
  · omega
  · omega
  · exact absurd hsum hbad
  · exact hs

end

theorem verifyFrame_csum (s : State) : (verifyFrame s).csum = checksum s.frame := by
  rcases verifyFrame_cases s with ⟨-, h⟩ | ⟨-, h⟩ | ⟨-, -, h⟩ | ⟨-, -, h⟩
  all_goals rw [h]

/-- R175: what FVER can write. -/
theorem verifyFrame_writes (s : State) :
    verifyFrame s = { s with
      csum := (verifyFrame s).csum
      valid := (verifyFrame s).valid
      err := (verifyFrame s).err
      errseen := (verifyFrame s).errseen } := by
  rcases verifyFrame_cases s with ⟨-, h⟩ | ⟨-, h⟩ | ⟨-, -, h⟩ | ⟨-, -, h⟩
  all_goals rw [h]

/-- R176: FVER leaves what it reads, so a second one finds the same outcome. -/
theorem verifyFrame_verifyFrame (s : State) : verifyFrame (verifyFrame s) = verifyFrame s := by
  rcases verifyFrame_cases s with ⟨hlen, h⟩ | ⟨hlen, h⟩ | ⟨hlen, hsum, h⟩ | ⟨hlen, hsum, h⟩
  all_goals rw [h]
  · exact verifyFrame_of_long hlen
  · exact verifyFrame_of_short hlen
  · exact verifyFrame_of_mismatch hlen hsum
  · exact verifyFrame_of_match hlen hsum

/-- Settles O37: OP 2 selects FVER, whose outcomes are by the length and then by the checksum. -/
theorem fverChecksLengthAndChecksumOnly : Obligations.FverChecksLengthAndChecksumOnly := by
  refine ⟨fun c => decodeCtrl_of_ctrlOp_two, fun s => ⟨verifyFrame s, exec_fver s, ?_, fun hlen => ?_, fun hlen => ?_,
    fun hlen hsum => ?_, fun hlen hsum => ?_, verifyFrame_writes s, ?_⟩⟩
  · rw [verifyFrame_csum, checksum_toNat_eq_sum_mod]
  · rw [verifyFrame_of_long hlen]
    exact ⟨rfl, rfl, rfl⟩
  · rw [verifyFrame_of_short hlen]
    exact ⟨rfl, rfl, rfl⟩
  · rw [verifyFrame_csum] at hsum
    rw [verifyFrame_of_mismatch hlen hsum]
    exact ⟨rfl, rfl, rfl⟩
  · rw [verifyFrame_csum] at hsum
    rw [verifyFrame_of_match hlen hsum]
    exact ⟨rfl, rfl, rfl⟩
  · rw [exec_fver, verifyFrame_verifyFrame]

/-! ### FENC and FVER in a run -/

/-- A run goes on with the next access (R10). -/
theorem RunsTo.access {n : ℕ} {s t u : State} {w : BusWord} {i : Instr} {rest : List HostEvent}
    (hrun : RunsTo n s t) (hw : decodeBus w = i) (h : t.pending = .access w :: rest)
    (hexec : exec i (t.setPending rest) = .next u) : RunsTo (n + 1) s u := by
  refine hrun.trans (runsTo_succ_iff.mpr ⟨u, ?_, .zero u⟩)
  rw [step_access h, ← hexec, ← hw]
  exact exec_decodeAt w (t.setPending rest)

section
variable {n : ℕ} {s t : State} {w : BusWord} {rest : List HostEvent} (hrun : RunsTo n s t)
include hrun

theorem RunsTo.fenc (hw : decodeBus w = .fenc) (hplen : t.plen.toNat ≤ 22) (h : t.pending = .access w :: rest) :
    ∃ u, RunsTo (n + 1) s u ∧ u.frame = buildFrame t.frame t.addr t.cmd t.plen.toNat ∧ u.pending = rest :=
  ⟨_, hrun.access hw h (exec_fenc_of_le hplen), rfl, rfl⟩

theorem RunsTo.wrRxlen {d : Byte} (hw : decodeBus w = .wr 0x1A#8 d) (h : t.pending = .access w :: rest) :
    ∃ u, RunsTo (n + 1) s u ∧ u.frame = t.frame ∧ u.rxlen = d ∧ u.pending = rest :=
  ⟨_, hrun.access hw h (execWr_of_ne_ctrl (a := 0x1A#8) (by decide) d _), rfl, rfl, rfl⟩

theorem RunsTo.fver (hw : decodeBus w = .fver) (h : t.pending = .access w :: rest) (hlen : t.rxlen = 26#8)
    (hsum : frameByte t.frame 25 = checksum t.frame) :
    ∃ u, RunsTo (n + 1) s u ∧ u.valid = true ∧ u.err = 0#3 ∧ u.frame = t.frame ∧ u.pending = rest := by
  refine ⟨_, hrun.access hw h (exec_fver _), ?_⟩
  rw [verifyFrame_of_match (s := t.setPending rest) (congrArg BitVec.toNat hlen) hsum]
  exact ⟨rfl, rfl, rfl, rfl⟩

end

theorem readEvent_eq_access_rd {e : HostEvent} (he : isReadEvent e = true) :
    ∃ w a, e = .access w ∧ decodeBus w = .rd a := by
  cases e with
  | reset => cases he
  | access w =>
    have hread : wordWe w = false := by simpa [isReadEvent] using he
    exact ⟨w, wordA w, rfl, (decodeBus_eq_rd_iff w _).mpr ⟨hread, rfl⟩⟩

/-- A run goes on with reads, which change no register (R102, R260). -/
theorem RunsTo.reads {n : ℕ} {s t : State} {es rest : List HostEvent} (hrun : RunsTo n s t)
    (hes : ∀ e ∈ es, isReadEvent e = true) (h : t.pending = es ++ rest) :
    ∃ returned, RunsTo (n + es.length) s (t.withPort rest returned) := by
  induction es generalizing n t with
  | nil =>
    obtain rfl : t.pending = rest := h
    exact ⟨t.returned, hrun⟩
  | cons e es ih =>
    obtain ⟨w, a, rfl, hread⟩ := readEvent_eq_access_rd (hes e List.mem_cons_self)
    have hnext := hrun.access hread h (exec_rd _ a)
    rw [List.length_cons, Nat.add_comm es.length, ← Nat.add_assoc]
    obtain ⟨returned, hrest⟩ := ih hnext (fun x hx => hes x (List.mem_cons_of_mem _ hx)) rfl
    exact ⟨returned, hrest⟩

/-- Settles O38: the frame FENC built is checksum-valid, the reads leave it alone, and with the length 26 FVER accepts
it. -/
theorem encodeThenVerifySucceeds : Obligations.EncodeThenVerifySucceeds := by
  intro s wEnc wLen wVer reads₁ reads₂ rest henc hlen hver hreads hplen hs
  rw [List.forall_mem_append] at hreads
  obtain ⟨t₁, hrun₁, hframe₁, hpending₁⟩ := (RunsTo.zero s).fenc henc hplen hs
  obtain ⟨returned₁, hrun₂⟩ := hrun₁.reads hreads.1 hpending₁
  obtain ⟨t₃, hrun₃, hframe₃, hrxlen₃, hpending₃⟩ := hrun₂.wrRxlen hlen rfl
  obtain ⟨returned₂, hrun₄⟩ := hrun₃.reads hreads.2 hpending₃
  have hbuilt : t₃.frame = buildFrame s.frame s.addr s.cmd s.plen.toNat := hframe₃.trans hframe₁
  have hsum : frameByte t₃.frame 25 = checksum t₃.frame := hbuilt ▸ frameByte_buildFrame_last ..
  obtain ⟨t, hrun, hvalid, herr, hframe, hpending⟩ := hrun₄.fver hver rfl hrxlen₃ hsum
  replace hframe : t.frame = buildFrame s.frame s.addr s.cmd s.plen.toNat := hframe.trans hbuilt
  have hcount : reads₁.length + reads₂.length + 3 = 0 + 1 + reads₁.length + 1 + reads₂.length + 1 := by omega
  refine ⟨t, hcount ▸ hrun, hvalid, herr, ?_, fun k h₁ h₂ => ?_, hpending⟩
  all_goals rw [hframe]
  · exact frameByte_buildFrame _ _ _ _ (by decide)
  · exact frameByte_buildFrame_payload s.frame s.addr s.cmd hplen h₁ h₂

/-- Settles O39: the verified buffer has the length 26, and the byte that was its checksum no longer is. -/
theorem alteredChecksumByteIsDetected : Obligations.AlteredChecksumByteIsDetected := by
  intro s t u b hfver hvalid hb hwr
  have heffect : Effect s .fver t := .of_exec rfl hfver
  obtain ⟨hframe, hrxlen⟩ := heffect.buffer_eq_of_valid hvalid
  rcases heffect.valid_iff.mp hvalid with ⟨-, hlen, hsum⟩ | ⟨-, hleaves⟩
  · rw [← hrxlen] at hlen
    rw [← hframe] at hsum
    obtain rfl : { t with frame := t.frame.setIfInBounds 25 b, valid := false } = u := by injection hwr
    refine ⟨_, exec_fver _, ?_⟩
    rw [verifyFrame_of_mismatch]
    · exact ⟨rfl, rfl, rfl⟩
    · exact congrArg BitVec.toNat hlen
    · rw [frameByte_set_self _ (by decide), checksum_set_last, ← hsum]
      exact hb
  · exact absurd rfl hleaves.1

end Sys2Proof.Machine

/-! SUPPORT. The fixed-point decode (spec/42_fixed_point.md R222, R223): the model's multiply and divide are `fl64`, what
`fl64` gives for values of moderate size, and the integers and decimals of FXDEC and TFIELD. -/

namespace Sys2Proof.Machine

/-! ### The multiply and the divide -/

theorem f64RoundUnits_lt (num den : ℕ) : f64RoundUnits num den < 2 ^ 63 :=
  (f64RoundUnits_le num den).trans_lt (by decide)

/-- R220: the model's product is rounded once. -/
theorem isFl64_f64MulNat (b : BitVec 64) (k : ℕ) : IsFl64 (f64Real b * k) (f64MulNat b k) := by
  have hround := roundingIsNearestEvenWithOverflow (f64Sign b) (f64Units b * k) 1 one_pos
  have hvalue : f64Real b * k =
      (if f64Sign b then -1 else 1) * (((f64Units b * k : ℕ) : ℚ) / (1 : ℕ) * 2 ^ (-1074 : ℤ)) := by
    rw [f64Real_eq_units, Nat.cast_one, div_one, Nat.cast_mul, mul_assoc, mul_right_comm]
  rw [hvalue]
  exact hround

/-- R222: the model's quotient is rounded once. -/
theorem isFl64_f64DivNat (n : ℕ) {k : ℕ} (hk : 0 < k) : IsFl64 ((n : ℚ) / k) (f64DivNat n k) := by
  have hround := roundingIsNearestEvenWithOverflow false (n * f64One) k hk
  have hone : (f64One : ℚ) * 2 ^ (-1074 : ℤ) = 1 := by
    rw [f64One, Nat.cast_pow, Nat.cast_ofNat, ← zpow_natCast, ← zpow_add₀ two_ne_zero]
    rfl
  have hvalue : (n : ℚ) / k =
      (if false then -1 else 1) * (((n * f64One : ℕ) : ℚ) / k * 2 ^ (-1074 : ℤ)) := by
    rw [Nat.cast_mul, mul_div_right_comm, mul_assoc, hone]
    simp
  rw [hvalue]
  exact hround

theorem f64Sign_f64DivNat (n k : ℕ) : f64Sign (f64DivNat n k) = false := f64Sign_pack (f64RoundUnits_lt _ _) false

theorem f64Sign_f64MulNat (b : BitVec 64) (k : ℕ) : f64Sign (f64MulNat b k) = f64Sign b :=
  f64Sign_pack (f64RoundUnits_lt _ _) _

/-- Moderate values are far below the overflow bound. -/
theorem lt_overflow {q : ℚ} (h : |q| ≤ 2 ^ 53) : |q| < 2 ^ 1024 - 2 ^ 970 := by
  have hsplit : (2 : ℚ) ^ 1024 - 2 ^ 970 = 2 ^ 970 * (2 ^ 54 - 1) := by rw [mul_sub, ← pow_add, mul_one]
  have hone : (1 : ℚ) ≤ 2 ^ 970 := one_le_pow₀ one_le_two
  rw [hsplit]
  calc |q| ≤ 2 ^ 53 := h
    _ < 1 * (2 ^ 54 - 1) := by norm_num
    _ ≤ 2 ^ 970 * (2 ^ 54 - 1) := mul_le_mul_of_nonneg_right hone (by norm_num)

theorem IsFl64.finite {q : ℚ} {p : BitVec 64} (h : IsFl64 q p) (hq : |q| ≤ 2 ^ 53) : f64Finite p := by
  obtain ⟨-, -, -, hnear⟩ := h
  exact (hnear (lt_overflow hq)).1

theorem IsFl64.abs_sub_le {q : ℚ} {p c : BitVec 64} (h : IsFl64 q p) (hq : |q| ≤ 2 ^ 53) (hc : f64Finite c) :
    |f64Real p - q| ≤ |f64Real c - q| := by
  obtain ⟨-, -, -, hnear⟩ := h
  exact ((hnear (lt_overflow hq)).2 c hc).1

theorem IsFl64.even_of_tie {q : ℚ} {p c : BitVec 64} (h : IsFl64 q p) (hq : |q| ≤ 2 ^ 53) (hc : f64Finite c)
    (hdist : |f64Real p - q| = |f64Real c - q|) (hne : f64Real p ≠ f64Real c) : f64Frac p % 2 = 0 := by
  obtain ⟨-, -, -, hnear⟩ := h
  exact ((hnear (lt_overflow hq)).2 c hc).2 hdist hne

/-- A value that has an encoding is its own rounding. -/
theorem IsFl64.exact {q : ℚ} {p c : BitVec 64} (h : IsFl64 q p) (hq : |q| ≤ 2 ^ 53) (hc : f64Finite c)
    (hval : f64Real c = q) : f64Real p = q := by
  have hdist := h.abs_sub_le hq hc
  rw [hval, sub_self, abs_zero] at hdist
  exact sub_eq_zero.mp (abs_nonpos_iff.mp hdist)

/-! ### FXDEC and TFIELD -/

theorem decodeCtrl_of_ctrlOp_four {c : Byte} (h : ctrlOp c = 4#3) : decodeCtrl c = .fxdec := by
  rw [decodeCtrl, h]
  rfl

theorem exec_fxdec (s : State) : exec .fxdec s = .next (decodeFixed s) := rfl

theorem littleEndianSum_eq_sum (bs : FxBytes) (len : ℕ) :
    littleEndianSum bs len = ∑ i ∈ Finset.range len, (fxByte bs i).toNat * 2 ^ (8 * i) := rfl

theorem ofNat_toNat_of_lt {n : ℕ} (h : n < 2 ^ 32) : (BitVec.ofNat 32 n).toNat = n := by
  rw [BitVec.toNat_ofNat, Nat.mod_eq_of_lt h]

theorem abs_div_thousand_le {n : ℕ} (h : n < 2 ^ 32) : |(n : ℚ) / 1000| ≤ 2 ^ 53 := by
  have hn : (n : ℚ) < 2 ^ 32 := by exact_mod_cast h
  rw [abs_of_nonneg (by positivity)]
  linarith

/-- R222: the decimal of an integer is its correctly rounded quotient. -/
theorem isFl64_decimal (n : ℕ) : IsFl64 ((n : ℚ) / 1000) (f64DivNat n 1000) := isFl64_f64DivNat n (by decide)

/-- R222: the decimal of a 32-bit integer. -/
theorem f64DivNat_thousand (n : BitVec 32) :
    IsFl64 ((n.toNat : ℚ) / 1000) (f64DivNat n.toNat 1000) ∧ f64Sign (f64DivNat n.toNat 1000) = false ∧
    f64Finite (f64DivNat n.toNat 1000) := by
  have hround := isFl64_decimal n.toNat
  exact ⟨hround, f64Sign_f64DivNat _ _, hround.finite (abs_div_thousand_le n.isLt)⟩

theorem decodeFixed_of_long {s : State} (h : 4 < s.fxLen.toNat) : decodeFixed s = s.raise .length := by
  rcases decodeFixed_cases s with ⟨-, hs⟩ | ⟨hlen, -⟩
  · exact hs
  · omega

/-- R222: the integer FXDEC accumulates, and its decimal. -/
theorem decodeFixed_of_le {s : State} (h : s.fxLen.toNat ≤ 4) :
    ∃ n : BitVec 32, n.toNat = littleEndianSum s.fxBytes s.fxLen.toNat ∧
      decodeFixed s = { s with fxInt := n, fxOut := f64DivNat n.toNat 1000, err := 0#3 } := by
  rcases decodeFixed_cases s with ⟨hlen, -⟩ | ⟨-, hs⟩
  · omega
  · have hn := ofNat_toNat_of_lt (littleEndianSum_lt s.fxBytes h)
    exact ⟨_, hn, by rw [hn]; exact hs⟩

/-- Settles O43: the accumulated bytes fit `FX_INT`, and the model's quotient is `fl64`. -/
theorem fxdecAccumulatesAndDivides : Obligations.FxdecAccumulatesAndDivides := by
  refine ⟨fun c => decodeCtrl_of_ctrlOp_four, fun s => ⟨fun hlen => ?_, fun hlen => ?_⟩⟩
  · rw [exec_fxdec, decodeFixed_of_long hlen]
    rfl
  · obtain ⟨n, hn, hs⟩ := decodeFixed_of_le hlen
    obtain ⟨hround, hsign, hfinite⟩ := f64DivNat_thousand n
    exact ⟨_, (exec_fxdec s).trans (congrArg _ hs), hn, hround, hsign, hfinite, rfl, rfl⟩

theorem decodeCtrl_of_ctrlOp_five {c : Byte} (h : ctrlOp c = 5#3) : decodeCtrl c = decodeTfield (ctrlFsel c) := by
  rw [decodeCtrl, h]
  rfl

theorem decodeCtrl_tfield {c : Byte} {k : ℕ} (hop : ctrlOp c = 5#3) (hfsel : (ctrlFsel c).toNat = k) :
    decodeCtrl c = decodeTfield (BitVec.ofNat 3 k) := by
  rw [decodeCtrl_of_ctrlOp_five hop, ← hfsel, BitVec.ofNat_toNat, BitVec.setWidth_eq]

theorem extractField_of_not_valid (field : Config.TelemetryField) {s : State} (h : s.valid = false) :
    extractField field s = s.raise .notValid := by
  rcases extractField_cases field s with ⟨-, hs⟩ | ⟨hvalid, -⟩
  · exact hs
  · rw [h] at hvalid
    cases hvalid

theorem telemetrySlice_len_le (field : Config.TelemetryField) : (Config.telemetrySlice field).2 ≤ 4 := by
  cases field <;> decide

/-- R223 on a verified frame: the field's bytes, and the integer and decimal of its frame bytes. -/
theorem extractField_of_valid (field : Config.TelemetryField) {s : State} (h : s.valid = true) :
    ∃ (bs : FxBytes) (n : BitVec 32),
      (∀ i < 4, fxByte bs i = if i < (Config.telemetrySlice field).2
        then frameByte s.frame ((Config.telemetrySlice field).1 + i) else 0#8) ∧
      n.toNat = ∑ i ∈ Finset.range (Config.telemetrySlice field).2,
        (frameByte s.frame ((Config.telemetrySlice field).1 + i)).toNat * 2 ^ (8 * i) ∧
      extractField field s = { s with
        fxBytes := bs
        fxLen := BitVec.ofNat 8 (Config.telemetrySlice field).2
        fxInt := n
        fxOut := f64DivNat n.toNat 1000
        err := 0#3 } := by
  have hlen := telemetrySlice_len_le field
  rcases extractField_cases field s with ⟨hvalid, -⟩ | ⟨-, bs, hbs, hs⟩
  · rw [h] at hvalid
    cases hvalid
  · have hn := ofNat_toNat_of_lt (littleEndianSum_lt bs hlen)
    refine ⟨bs, _, hbs, hn.trans ?_, by rw [hn]; exact hs⟩
    rw [littleEndianSum_eq_sum]
    refine Finset.sum_congr rfl fun i hi => ?_
    have hi := Finset.mem_range.mp hi
    rw [hbs i (hi.trans_le hlen), if_pos hi]

/-- Settles O44: each row of the table is TFIELD on one field, and the reserved selects never reach the guard. -/
theorem tfieldExtractsTheSelectedField : Obligations.TfieldExtractsTheSelectedField := by
  refine ⟨fun p hp => ?_, fun c s hop hfsel => exec_decodeCtrl_of_ctrlReserved (.inr (.inr ⟨hop, hfsel⟩)) s⟩
  obtain ⟨field, hslice, hrow, hexec⟩ : ∃ field, p.2.2 = Config.telemetrySlice field ∧
      decodeTfield (BitVec.ofNat 3 p.1) = p.2.1 ∧ ∀ s, exec p.2.1 s = .next (extractField field s) := by
    simp only [List.mem_cons, List.not_mem_nil, or_false] at hp
    rcases hp with rfl | rfl | rfl | rfl | rfl
    · exact ⟨.current, rfl, rfl, fun _ => rfl⟩
    · exact ⟨.voltage, rfl, rfl, fun _ => rfl⟩
    · exact ⟨.maxCurrent, rfl, rfl, fun _ => rfl⟩
    · exact ⟨.maxVoltage, rfl, rfl, fun _ => rfl⟩
    · exact ⟨.vset, rfl, rfl, fun _ => rfl⟩
  rw [hslice]
  refine ⟨fun c hop hfsel => (decodeCtrl_tfield hop hfsel).trans hrow, fun s => ⟨fun hvalid => ?_, fun hvalid => ?_⟩⟩
  · rw [hexec, extractField_of_not_valid field hvalid]
    rfl
  · obtain ⟨bs, n, hbs, hn, hs⟩ := extractField_of_valid field hvalid
    obtain ⟨hround, hsign, -⟩ := f64DivNat_thousand n
    have hlen : (BitVec.ofNat 8 (Config.telemetrySlice field).2).toNat = (Config.telemetrySlice field).2 := by
      cases field <;> rfl
    exact ⟨_, (hexec s).trans (congrArg _ hs), hbs, hlen, hn, hround, hsign, rfl, rfl⟩

end Sys2Proof.Machine

/-! SUPPORT. The fixed-point encode (spec/42_fixed_point.md R220, R221): truncation, the inputs FXENC accepts, and the
order of encodings by magnitude, which rounding keeps. -/

namespace Sys2Proof.Machine

/-! ### Truncation -/

theorem f64One_cast : (f64One : ℚ) = 2 ^ 1074 := by rw [f64One, Nat.cast_pow, Nat.cast_ofNat]

theorem truncQ_neg {x : ℚ} (hx : 0 ≤ x) : truncQ (-x) = -⌊x⌋ := by
  unfold truncQ
  split
  next hneg =>
    obtain rfl : x = 0 := by linarith
    simp
  next => exact Int.ceil_neg

/-- R9: the model's truncation is of the real value. -/
theorem truncQ_f64Real (b : BitVec 64) : truncQ (f64Real b) = f64Trunc b := by
  have hvalue : (f64Units b : ℚ) * 2 ^ (-1074 : ℤ) = (f64Units b : ℚ) / f64One := by
    rw [f64One_cast, zpow_neg, div_eq_mul_inv]
    rfl
  have hpos : (0 : ℚ) ≤ (f64Units b : ℚ) / f64One := by positivity
  have hfloor : ⌊(f64Units b : ℚ) / f64One⌋ = ((f64Units b / f64One : ℕ) : ℤ) :=
    Rat.floor_natCast_div_natCast _ _
  rw [f64Real_eq_units, hvalue, f64Trunc]
  cases f64Sign b with
  | false => simp only [Bool.false_eq_true, if_false, one_mul, truncQ, if_pos hpos, hfloor]
  | true => simp only [if_true, neg_one_mul, truncQ_neg hpos, hfloor]

/-! ### FXENC -/

theorem not_f64Finite_iff (b : BitVec 64) : ¬ f64Finite b ↔ f64IsNaN b = true ∨ f64IsInf b = true := by
  unfold f64IsNaN f64IsInf
  by_cases hexp : f64Exp b = 2047 <;> by_cases hfrac : f64Frac b = 0 <;> simp [hexp, hfrac]

theorem f64IsInf_of_finite {b : BitVec 64} (h : f64Finite b) : f64IsInf b = false :=
  Bool.eq_false_iff.mpr fun hinf => (not_f64Finite_iff b).mpr (.inr hinf) h

/-- R220: the inputs that pass FXENC's checks. -/
structure FxencFits (b : BitVec 64) : Prop where
  finite : f64Finite b
  product : f64IsInf (f64MulNat b 1000) = false
  nonneg : 0 ≤ f64Trunc (f64MulNat b 1000)
  le_max : f64Trunc (f64MulNat b 1000) ≤ 2 ^ 32 - 1

theorem encodeFixed_of_fits {s : State} (h : FxencFits s.fxIn) :
    ∃ n : BitVec 32, (n.toNat : ℤ) = f64Trunc (f64MulNat s.fxIn 1000) ∧
      encodeFixed s = { s with fxInt := n, fxBytes := littleEndianBytes n, fxLen := 4#8, err := 0#3 } := by
  obtain ⟨hfinite, hproduct, hnonneg, hmax⟩ := h
  have hinput : ¬ (f64IsNaN s.fxIn || f64IsInf s.fxIn) = true := fun hbad =>
    (not_f64Finite_iff s.fxIn).mpr (Bool.or_eq_true _ _ ▸ hbad) hfinite
  have hrange : ¬ (f64Trunc (f64MulNat s.fxIn 1000) < 0 ∨ (Config.fxMax : ℤ) < f64Trunc (f64MulNat s.fxIn 1000)) := by
    have hfxMax : (Config.fxMax : ℤ) = 2 ^ 32 - 1 := by decide
    omega
  refine ⟨BitVec.ofNat 32 (f64Trunc (f64MulNat s.fxIn 1000)).toNat, ?_, ?_⟩
  · rw [ofNat_toNat_of_lt (by omega), Int.toNat_of_nonneg hnonneg]
  · have hscale : Config.scale = 1000 := by decide
    simp only [encodeFixed, if_neg hinput, hscale, hproduct, Bool.false_eq_true, if_false, if_neg hrange]
    rfl

theorem encodeFixed_of_not_fits {s : State} (h : ¬ FxencFits s.fxIn) : encodeFixed s = s.raise .range := by
  rcases encodeFixed_cases s with hs | ⟨hnan, hinf, hproduct, hnonneg, hmax, -⟩
  · exact hs
  · refine absurd ⟨not_not.mp fun hfinite => ?_, hproduct, hnonneg, hmax⟩ h
    rcases (not_f64Finite_iff _).mp hfinite with hbad | hbad
    · exact absurd hbad (Bool.eq_false_iff.mp hnan)
    · exact absurd hbad (Bool.eq_false_iff.mp hinf)

theorem decodeCtrl_of_ctrlOp_three {c : Byte} (h : ctrlOp c = 3#3) : decodeCtrl c = .fxenc := by
  rw [decodeCtrl, h]
  rfl

theorem exec_fxenc (s : State) : exec .fxenc s = .next (encodeFixed s) := rfl

theorem exec_fxenc_of_not_fits {s : State} (h : ¬ FxencFits s.fxIn) :
    exec .fxenc s = .next { s with err := 3#3, errseen := true } := by
  rw [exec_fxenc, encodeFixed_of_not_fits h]
  rfl

/-- R220: byte `k` of the four-byte form. -/
theorem fxByte_littleEndianBytes (n : BitVec 32) {k : ℕ} (hk : k < 4) :
    (fxByte (littleEndianBytes n) k).toNat = n.toNat / 2 ^ (8 * k) % 256 := by
  rw [littleEndianBytes, fxByte_ofFn_lt _ hk, BitVec.extractLsb'_toNat, Nat.shiftRight_eq_div_pow]

/-- Settles O41, with the model's product for `p`: each failing check is one the input does not fit. -/
theorem fxencScalesRoundsTruncates : Obligations.FxencScalesRoundsTruncates := by
  refine ⟨fun c => decodeCtrl_of_ctrlOp_three, fun s => ⟨fun hbad => ?_, fun hfinite =>
    ⟨f64MulNat s.fxIn 1000, isFl64_f64MulNat s.fxIn 1000, fun hinf => ?_, fun _ hrange => ?_,
      fun hproduct hnonneg hmax => ?_⟩⟩⟩
  · exact exec_fxenc_of_not_fits fun hfits => (not_f64Finite_iff _).mpr hbad hfits.finite
  · exact exec_fxenc_of_not_fits fun hfits => Bool.eq_false_iff.mp hfits.product hinf
  · rw [truncQ_f64Real] at hrange
    exact exec_fxenc_of_not_fits fun hfits => hrange.elim (not_lt.mpr hfits.nonneg) (not_lt.mpr hfits.le_max)
  · rw [truncQ_f64Real] at hnonneg hmax ⊢
    obtain ⟨n, hn, hs⟩ := encodeFixed_of_fits ⟨hfinite, f64IsInf_of_finite hproduct, hnonneg, hmax⟩
    exact ⟨_, (exec_fxenc s).trans (congrArg _ hs), hn, fun k => fxByte_littleEndianBytes n, rfl, rfl, rfl⟩

/-! ### Encodings in order of magnitude -/

/-- The encoding without its sign: exponent and fraction as one number. -/
def f64Magnitude (b : BitVec 64) : ℕ := (b.extractLsb' 0 63).toNat

theorem f64Exp_eq_magnitude (b : BitVec 64) : f64Exp b = f64Magnitude b / 2 ^ 52 := by
  simp only [f64Exp, f64Magnitude, BitVec.extractLsb'_toNat, Nat.shiftRight_eq_div_pow]
  omega

theorem f64Frac_eq_magnitude (b : BitVec 64) : f64Frac b = f64Magnitude b % 2 ^ 52 := by
  simp only [f64Frac, f64Magnitude, BitVec.extractLsb'_toNat, Nat.shiftRight_eq_div_pow]
  omega

theorem f64Magnitude_pack {m : ℕ} (h : m < 2 ^ 63) (sign : Bool) : f64Magnitude (f64Pack sign m) = m := by
  rw [f64Magnitude, BitVec.extractLsb'_toNat, f64Pack_toNat h, Nat.shiftRight_zero]
  omega

theorem f64Magnitude_f64MulNat (b : BitVec 64) (k : ℕ) :
    f64Magnitude (f64MulNat b k) = f64RoundUnits (f64Units b * k) 1 := f64Magnitude_pack (f64RoundUnits_lt _ _) _

theorem f64Finite_of_magnitude_lt {b : BitVec 64} (h : f64Magnitude b < f64Infinity) : f64Finite b := by
  rw [f64Infinity_eq] at h
  rw [f64Finite, f64Exp_eq_magnitude]
  omega

/-- The units of 2^-1074 that a magnitude stands for. -/
def magnitudeUnits (m : ℕ) : ℕ :=
  if m / 2 ^ 52 = 0 then m % 2 ^ 52 else (2 ^ 52 + m % 2 ^ 52) * 2 ^ (m / 2 ^ 52 - 1)

theorem f64Units_eq_magnitudeUnits (b : BitVec 64) : f64Units b = magnitudeUnits (f64Magnitude b) := by
  rw [f64Units, f64Exp_eq_magnitude, f64Frac_eq_magnitude, magnitudeUnits]

/-- The next magnitude is one last place further, or the first value of the next exponent. -/
theorem magnitudeUnits_lt_succ (m : ℕ) : magnitudeUnits m < magnitudeUnits (m + 1) := by
  obtain ⟨e, f, hf, rfl⟩ : ∃ e f, f < 2 ^ 52 ∧ m = e * 2 ^ 52 + f := ⟨m / 2 ^ 52, m % 2 ^ 52, by omega, by omega⟩
  unfold magnitudeUnits
  rw [show (e * 2 ^ 52 + f) / 2 ^ 52 = e by omega, show (e * 2 ^ 52 + f) % 2 ^ 52 = f by omega]
  rcases Nat.lt_or_eq_of_le (Nat.succ_le_of_lt hf) with hstep | hcarry
  · rw [show (e * 2 ^ 52 + f + 1) / 2 ^ 52 = e by omega, show (e * 2 ^ 52 + f + 1) % 2 ^ 52 = f + 1 by omega]
    split
    · exact Nat.lt_succ_self f
    · exact Nat.mul_lt_mul_of_pos_right (by omega) (Nat.two_pow_pos _)
  · rw [show (e * 2 ^ 52 + f + 1) / 2 ^ 52 = e + 1 by omega, show (e * 2 ^ 52 + f + 1) % 2 ^ 52 = 0 by omega,
      if_neg (Nat.succ_ne_zero e), Nat.add_sub_cancel, Nat.add_zero]
    rcases Nat.eq_zero_or_eq_succ_pred e with he | he
    · rw [if_pos he, he]
      omega
    · rw [if_neg (by omega), he, Nat.succ_sub_one, pow_succ 2 e.pred, mul_comm (2 ^ e.pred) 2, ← mul_assoc]
      exact Nat.mul_lt_mul_of_pos_right (by omega) (Nat.two_pow_pos _)

theorem magnitudeUnits_strictMono : StrictMono magnitudeUnits := strictMono_nat_of_lt_succ magnitudeUnits_lt_succ

/-! ### Rounding in order of magnitude -/

theorem divNearestEven_mono {a a' : ℕ} (h : a ≤ a') {d : ℕ} (hd : 0 < d) :
    divNearestEven a d ≤ divNearestEven a' d := by
  rcases Nat.lt_or_eq_of_le h with hlt | rfl
  · obtain ⟨-, hlo, -⟩ := divNearestEven_spec a hd
    obtain ⟨hup, -, -⟩ := divNearestEven_spec a' hd
    generalize divNearestEven a d = r, divNearestEven a' d = r' at *
    by_contra hr
    have := Nat.mul_le_mul_right d (show 2 * r' + 2 ≤ 2 * r by omega)
    nlinarith
  · exact le_rfl

theorem roundPlace_mono {num num' : ℕ} (h : num ≤ num') (den : ℕ) : roundPlace num den ≤ roundPlace num' den := by
  unfold roundPlace
  rw [Nat.log2_eq_log_two, Nat.log2_eq_log_two]
  exact Nat.sub_le_sub_right (Nat.log_mono_right (Nat.div_le_div_right h)) 52

/-- A larger number never rounds to a smaller encoding: within one place the significand grows, and from one place to
the next the significand has carried. -/
theorem f64RoundUnits_mono {num num' den : ℕ} (h : num ≤ num') (hden : 0 < den) :
    f64RoundUnits num den ≤ f64RoundUnits num' den := by
  rw [f64RoundUnits_eq, f64RoundUnits_eq]
  refine min_le_min_right _ ?_
  have hle := roundSignificand_le (num := num) hden
  have hge := le_roundSignificand (num := num') hden
  rcases Nat.lt_or_eq_of_le (roundPlace_mono h den) with hplace | hplace
  · have := hge (by omega)
    omega
  · have hsig : roundSignificand num den ≤ roundSignificand num' den := by
      unfold roundSignificand
      rw [hplace]
      exact divNearestEven_mono h (Nat.mul_pos hden (Nat.two_pow_pos _))
    omega

/-- A bound on the magnitude of a product is a bound on the magnitude of its input: the bound to which an input `m + 1`
rounds and its predecessor does not. -/
theorem f64Magnitude_f64MulNat_lt_iff {m k bound : ℕ} (hlast : f64RoundUnits (magnitudeUnits m * k) 1 < bound)
    (hnext : bound ≤ f64RoundUnits (magnitudeUnits (m + 1) * k) 1) (b : BitVec 64) :
    f64Magnitude (f64MulNat b k) < bound ↔ f64Magnitude b ≤ m := by
  have hmono {m m' : ℕ} (h : m ≤ m') :
      f64RoundUnits (magnitudeUnits m * k) 1 ≤ f64RoundUnits (magnitudeUnits m' * k) 1 :=
    f64RoundUnits_mono (Nat.mul_le_mul_right k (magnitudeUnits_strictMono.monotone h)) one_pos
  rw [f64Magnitude_f64MulNat, f64Units_eq_magnitudeUnits]
  refine ⟨fun hlt => ?_, fun hle => (hmono hle).trans_lt hlast⟩
  by_contra hgt
  exact absurd (hnext.trans (hmono (Nat.succ_le_of_lt (not_le.mp hgt)))) (not_le.mpr hlt)

/-- R220: a positive product is in range below 2^32. -/
theorem magnitudeUnits_two_pow_32 : magnitudeUnits 0x41F0000000000000 = 2 ^ 32 * f64One := by decide +kernel

/-- R220: a negative product truncates to 0 above -1. -/
theorem magnitudeUnits_one : magnitudeUnits 0x3FF0000000000000 = f64One := by decide +kernel

theorem f64One_pos : 0 < f64One := by
  unfold f64One
  positivity

theorem f64Units_lt_iff {b : BitVec 64} {m : ℕ} : f64Units b < magnitudeUnits m ↔ f64Magnitude b < m := by
  rw [f64Units_eq_magnitudeUnits, magnitudeUnits_strictMono.lt_iff_lt]

/-- R220: the products whose truncation fits 32 bits, by sign. -/
theorem f64Trunc_fits_iff (p : BitVec 64) :
    (0 ≤ f64Trunc p ∧ f64Trunc p ≤ 2 ^ 32 - 1) ↔
      f64Magnitude p < if f64Sign p then 0x3FF0000000000000 else 0x41F0000000000000 := by
  rw [f64Trunc]
  cases f64Sign p with
  | false =>
    simp only [Bool.false_eq_true, if_false]
    rw [← f64Units_lt_iff, magnitudeUnits_two_pow_32, ← Nat.div_lt_iff_lt_mul f64One_pos]
    generalize f64Units p / f64One = n
    omega
  | true =>
    simp only [if_true]
    rw [← f64Units_lt_iff, magnitudeUnits_one, ← Nat.div_eq_zero_iff_lt f64One_pos]
    generalize f64Units p / f64One = n
    omega

/-- R220 (corner cases): the inputs that fit, by sign. -/
theorem fxencFits_iff (b : BitVec 64) :
    FxencFits b ↔
      if f64Sign b then f64Magnitude b < 0x3F50624DD2F1A9FC else f64Magnitude b ≤ 0x4150624DD2F1A9FB := by
  have hproduct := f64Trunc_fits_iff (f64MulNat b 1000)
  rw [f64Sign_f64MulNat] at hproduct
  have hinput : (f64Magnitude (f64MulNat b 1000) < if f64Sign b then 0x3FF0000000000000 else 0x41F0000000000000) ↔
      if f64Sign b then f64Magnitude b < 0x3F50624DD2F1A9FC else f64Magnitude b ≤ 0x4150624DD2F1A9FB := by
    cases f64Sign b with
    | false => exact f64Magnitude_f64MulNat_lt_iff (by decide +kernel) (by decide +kernel) b
    | true =>
      have h := f64Magnitude_f64MulNat_lt_iff (m := 0x3F50624DD2F1A9FB) (k := 1000) (bound := 0x3FF0000000000000)
        (by decide +kernel) (by decide +kernel) b
      exact h.trans Nat.lt_succ_iff.symm
  rw [← hinput]
  refine ⟨fun hfits => hproduct.mp ⟨hfits.nonneg, hfits.le_max⟩, fun hlt => ?_⟩
  have hfinite {c : BitVec 64} {m : ℕ} (h : f64Magnitude c < m) (hm : m ≤ f64Infinity) : f64Finite c :=
    f64Finite_of_magnitude_lt (h.trans_le hm)
  obtain ⟨hnonneg, hmax⟩ := hproduct.mpr hlt
  refine ⟨?_, f64IsInf_of_finite (hfinite hlt ?_), hnonneg, hmax⟩
  · have hle := hinput.mp hlt
    split at hle
    · exact hfinite hle (by decide)
    · exact hfinite (Nat.lt_succ_of_le hle) (by decide)
  · split <;> decide

/-- R281: FXENC ends with `NONE` exactly on the inputs that fit. -/
theorem exec_fxenc_succeeds_iff (s : State) : (∃ t, exec .fxenc s = .next t ∧ t.err = 0#3) ↔ FxencFits s.fxIn := by
  refine ⟨fun ⟨t, ht, herr⟩ => ?_, fun hfits => ?_⟩
  · by_contra hfits
    obtain rfl : { s with err := 3#3, errseen := true } = t := by
      simpa using (exec_fxenc_of_not_fits hfits).symm.trans ht
    cases herr
  · obtain ⟨n, -, hs⟩ := encodeFixed_of_fits hfits
    exact ⟨_, (exec_fxenc s).trans (congrArg _ hs), rfl⟩

/-- Settles O42: rounding keeps order, so the accepted magnitudes end where the rounded product leaves the range; the two
encodings on either side of each bound are evaluated. -/
theorem fxencAcceptsExactlyTheseEncodings : Obligations.FxencAcceptsExactlyTheseEncodings :=
  fun s => (fxencFits_iff s.fxIn).symm.trans (exec_fxenc_succeeds_iff s).symm

end Sys2Proof.Machine

/-! SUPPORT. The fixed-point round trip (spec/42_fixed_point.md R225, R226): `fl64` has one value, keeps integers of at
most 53 bits, and moves a decoded integer by less than one. -/

namespace Sys2Proof.Machine

/-! ### `fl64` determines the value -/

theorem f64Frac_mod_two (b : BitVec 64) : f64Frac b % 2 = f64Magnitude b % 2 := by
  rw [f64Frac_eq_magnitude]
  omega

theorem f64Real_of_magnitude (b : BitVec 64) :
    f64Real b = signFactor (f64Sign b) * ((magnitudeUnits (f64Magnitude b) : ℚ) * 2 ^ (-1074 : ℤ)) := by
  rw [f64Real_eq_units, f64Units_eq_magnitudeUnits]

theorem f64Real_nonneg {b : BitVec 64} (h : f64Sign b = false) : 0 ≤ f64Real b := by
  rw [f64Real_of_magnitude, h]
  simp only [signFactor, Bool.false_eq_true, if_false]
  positivity

/-- Of one sign, a magnitude between two others is a value between theirs. -/
theorem f64Real_between {a b c : BitVec 64} (ha : f64Sign a = f64Sign c) (hb : f64Sign b = f64Sign c)
    (hac : f64Magnitude a < f64Magnitude c) (hcb : f64Magnitude c < f64Magnitude b) :
    (f64Real a - f64Real c) * (f64Real b - f64Real c) < 0 := by
  have hac' : (magnitudeUnits (f64Magnitude a) : ℚ) < magnitudeUnits (f64Magnitude c) :=
    Nat.cast_lt.mpr (magnitudeUnits_strictMono hac)
  have hcb' : (magnitudeUnits (f64Magnitude c) : ℚ) < magnitudeUnits (f64Magnitude b) :=
    Nat.cast_lt.mpr (magnitudeUnits_strictMono hcb)
  have hunit : (0 : ℚ) < 2 ^ (-1074 : ℤ) := zpow_pos two_pos _
  have hsq : signFactor (f64Sign c) * signFactor (f64Sign c) = 1 := by cases f64Sign c <;> simp [signFactor]
  rw [f64Real_of_magnitude a, f64Real_of_magnitude b, f64Real_of_magnitude c, ha, hb, ← mul_sub, ← mul_sub,
    mul_mul_mul_comm, hsq, one_mul, ← sub_mul, ← sub_mul]
  exact mul_neg_of_neg_of_pos (mul_neg_of_neg_of_pos (sub_neg.mpr hac') hunit) (mul_pos (sub_pos.mpr hcb') hunit)

/-- Between two points as far from `q` as each other lie only nearer ones. -/
theorem abs_sub_lt_of_between {a b c q : ℚ} (h : |a - q| = |b - q|) (hbetween : (a - c) * (b - c) < 0) :
    |c - q| < |a - q| := by
  rcases abs_eq_abs.mp h with heq | hneg
  · obtain rfl : a = b := sub_left_inj.mp heq
    exact absurd hbetween (not_lt.mpr (mul_self_nonneg _))
  · obtain rfl : b = 2 * q - a := by linarith
    rw [← sq_lt_sq]
    linarith

/-- Of two even encodings of one sign as near to `q` as each other, the smaller is not nearest: the odd one that follows
it is nearer. -/
theorem IsFl64.not_magnitude_lt {q : ℚ} {p p' : BitVec 64} (h : IsFl64 q p) (hq : |q| ≤ 2 ^ 53)
    (hdist : |f64Real p - q| = |f64Real p' - q|) (hfinite' : f64Finite p') (hsign : f64Sign p = f64Sign p')
    (heven : f64Frac p % 2 = 0) (heven' : f64Frac p' % 2 = 0) : ¬ f64Magnitude p < f64Magnitude p' := by
  intro hlt
  rw [f64Frac_mod_two] at heven heven'
  have hbound : f64Magnitude p' < 2 ^ 63 := (p'.extractLsb' 0 63).isLt
  have hpack : f64Magnitude p + 1 < 2 ^ 63 := by omega
  have hmag := f64Magnitude_pack hpack (f64Sign p)
  have hpackSign := f64Sign_pack hpack (f64Sign p)
  generalize f64Pack (f64Sign p) (f64Magnitude p + 1) = c at hmag hpackSign
  have hfinite : f64Finite c := by
    rw [f64Finite, f64Exp_eq_magnitude] at hfinite' ⊢
    omega
  have hbetween := f64Real_between (a := p) (b := p') (c := c) hpackSign.symm (hsign.symm.trans hpackSign.symm)
    (by omega) (by omega)
  exact absurd (h.abs_sub_le hq hfinite) (not_le.mpr (abs_sub_lt_of_between hdist hbetween))

theorem f64Real_zero : f64Real 0#64 = 0 := by
  have hfrac : f64Frac 0#64 = 0 := by decide
  have hexp : f64Exp 0#64 = 0 := by decide
  simp [f64Real, hfrac, hexp]

/-- A rounding has the sign of what it rounds, except that a zero may have either. -/
theorem IsFl64.sign_eq {q : ℚ} {p p' : BitVec 64} (h : IsFl64 q p) (h' : IsFl64 q p') (hq : q ≠ 0) :
    f64Sign p = f64Sign p' := by
  obtain ⟨hpos, hneg, -⟩ := h
  obtain ⟨hpos', hneg', -⟩ := h'
  rcases lt_or_gt_of_ne hq with hlt | hgt
  · exact (hneg hlt).trans (hneg' hlt).symm
  · exact (hpos hgt).trans (hpos' hgt).symm

/-- R9 leaves no choice of the value: two values tied for nearest would both be even. -/
theorem IsFl64.real_unique {q : ℚ} {p p' : BitVec 64} (h : IsFl64 q p) (h' : IsFl64 q p') (hq : |q| ≤ 2 ^ 53) :
    f64Real p = f64Real p' := by
  by_contra hne
  have hfinite := h.finite hq
  have hfinite' := h'.finite hq
  have hdist := le_antisymm (h.abs_sub_le hq hfinite') (h'.abs_sub_le hq hfinite)
  have heven := h.even_of_tie hq hfinite' hdist hne
  have heven' := h'.even_of_tie hq hfinite hdist.symm (Ne.symm hne)
  have hzero : q ≠ 0 := by
    rintro rfl
    have hvalue := h.exact hq (by decide) f64Real_zero
    have hvalue' := h'.exact hq (by decide) f64Real_zero
    exact hne (hvalue.trans hvalue'.symm)
  have hsign := h.sign_eq h' hzero
  rcases Nat.lt_trichotomy (f64Magnitude p) (f64Magnitude p') with hlt | heq | hgt
  · exact h.not_magnitude_lt hq hdist hfinite' hsign heven heven' hlt
  · exact hne (by rw [f64Real_of_magnitude, f64Real_of_magnitude, hsign, heq])
  · exact h'.not_magnitude_lt hq hdist.symm hfinite hsign.symm heven' heven hgt

/-! ### The round trip -/

/-- A multiple of the last place needs no rounding. -/
theorem roundSignificand_mul_of_dvd {num : ℕ} (h : 2 ^ roundPlace num 1 ∣ num) :
    roundSignificand num 1 * 2 ^ roundPlace num 1 = num := by
  obtain ⟨r, hr⟩ := h
  have hround : roundSignificand num 1 = r := by
    rw [roundSignificand, one_mul]
    generalize 2 ^ roundPlace num 1 = d, Nat.two_pow_pos (roundPlace num 1) = hd at *
    rw [hr, mul_comm]
    exact divNearestEven_mul r hd
  rw [hround, mul_comm, ← hr]

theorem roundPlace_le {k s : ℕ} (hk : k < 2 ^ 53) : roundPlace (k * 2 ^ s) 1 ≤ s := by
  have hlt : k * 2 ^ s < 2 ^ (53 + s) := by
    rw [pow_add]
    exact Nat.mul_lt_mul_of_pos_right hk (Nat.two_pow_pos s)
  rw [roundPlace, Nat.div_one]
  rcases Nat.eq_zero_or_pos (k * 2 ^ s) with hzero | hpos
  · simp [hzero]
  · have := (Nat.log2_lt hpos.ne').mpr hlt
    omega

/-- An integer of at most 53 bits over a power of two is a binary64 value. -/
theorem exists_f64Real_eq_div {k e : ℕ} (hk : k < 2 ^ 53) (he : e ≤ 1074) :
    ∃ b, f64Finite b ∧ f64Real b = (k : ℚ) / 2 ^ e := by
  obtain ⟨s, hs⟩ := Nat.exists_eq_add_of_le he
  have hvalue : ((k * 2 ^ s : ℕ) : ℚ) / (1 : ℕ) * 2 ^ (-1074 : ℤ) = k / 2 ^ e := by
    have hunit : (2 : ℚ) ^ (-1074 : ℤ) = (2 ^ e * 2 ^ s)⁻¹ := by
      rw [zpow_neg, ← pow_add, ← hs]
      rfl
    rw [hunit]
    push_cast
    field_simp
  have hsmall : |(k : ℚ) / 2 ^ e| ≤ 2 ^ 53 := by
    have hkq : (k : ℚ) ≤ 2 ^ 53 := by exact_mod_cast hk.le
    rw [abs_of_nonneg (by positivity)]
    exact (div_le_self k.cast_nonneg (one_le_pow₀ one_le_two)).trans hkq
  have hbelow := (div_units_lt_overflow_iff (num := k * 2 ^ s) one_pos).mp
    (hvalue ▸ (le_abs_self _).trans_lt (lt_overflow hsmall))
  rw [← roundPlace_add_roundSignificand_lt_iff one_pos] at hbelow
  have hunits := unitsToward_pack_round one_pos false hbelow
  have hsig := roundSignificand_mul_of_dvd (Dvd.dvd.mul_left (pow_dvd_pow 2 (roundPlace_le (s := s) hk)) k)
  refine ⟨f64Pack false (f64RoundUnits (k * 2 ^ s) 1), ?_, ?_⟩
  · rw [f64RoundUnits_of_lt hbelow]
    exact f64Finite_pack hbelow false
  · have hsigQ : (roundSignificand (k * 2 ^ s) 1 : ℚ) * 2 ^ roundPlace (k * 2 ^ s) 1 = (k * 2 ^ s : ℕ) := by
      exact_mod_cast hsig
    rw [f64Real_eq_unitsToward false, hunits, hsigQ, ← hvalue, Nat.cast_one, div_one]
    simp

theorem exists_f64Real_eq_natCast {n : ℕ} (hn : n < 2 ^ 53) : ∃ b, f64Finite b ∧ f64Real b = n := by
  simpa using exists_f64Real_eq_div hn (Nat.zero_le 1074)

/-- An integer of at most 53 bits is not rounded. -/
theorem IsFl64.real_eq_natCast {n : ℕ} {p : BitVec 64} (h : IsFl64 n p) (hn : n < 2 ^ 53) : f64Real p = n := by
  obtain ⟨c, hc, hvalue⟩ := exists_f64Real_eq_natCast hn
  refine h.exact ?_ hc hvalue
  rw [abs_of_nonneg n.cast_nonneg]
  exact_mod_cast hn.le

theorem f64Real_roundTrip_nonneg (n : ℕ) : 0 ≤ f64Real (f64MulNat (f64DivNat n 1000) 1000) :=
  f64Real_nonneg ((f64Sign_f64MulNat _ _).trans (f64Sign_f64DivNat _ _))

section
variable {n : ℕ} (hn : n < 2 ^ 32)
include hn

/-- The decimal of `n` times 1000 is `n` within a half: a multiple of 2^-20 is that near already. -/
theorem abs_decimal_sub_lt : |f64Real (f64DivNat n 1000) * 1000 - n| < 1 / 2 := by
  obtain ⟨c, hc, hvalue⟩ := exists_f64Real_eq_div (k := n * 2 ^ 20 / 1000) (e := 20) (by omega) (by decide)
  have hnear := (isFl64_decimal n).abs_sub_le (abs_div_thousand_le hn) hc
  have hlo : (n * 2 ^ 20 / 1000 : ℕ) * (1000 : ℚ) ≤ n * 2 ^ 20 := by exact_mod_cast Nat.div_mul_le_self _ _
  have hhi : (n * 2 ^ 20 : ℚ) < ((n * 2 ^ 20 / 1000 : ℕ) + 1) * 1000 := by
    exact_mod_cast Nat.lt_mul_of_div_lt (Nat.lt_succ_self (n * 2 ^ 20 / 1000)) (by decide)
  have hgrid : |f64Real c - (n : ℚ) / 1000| ≤ 1 / 2 ^ 20 := by
    rw [hvalue]
    generalize ((n * 2 ^ 20 / 1000 : ℕ) : ℚ) = k at *
    exact abs_le.mpr ⟨by linarith, by linarith⟩
  have hdist := abs_le.mp (hnear.trans hgrid)
  exact abs_lt.mpr ⟨by linarith [hdist.1], by linarith [hdist.2]⟩

theorem isFl64_roundTrip :
    IsFl64 (f64Real (f64DivNat n 1000) * 1000) (f64MulNat (f64DivNat n 1000) 1000) ∧
      |f64Real (f64DivNat n 1000) * 1000| ≤ 2 ^ 53 := by
  have hclose := abs_lt.mp (abs_decimal_sub_lt hn)
  have hle : (n : ℚ) < 2 ^ 32 := by exact_mod_cast hn
  have hnonneg : (0 : ℚ) ≤ n := Nat.cast_nonneg n
  exact ⟨isFl64_f64MulNat _ 1000, abs_le.mpr ⟨by linarith [hclose.1], by linarith [hclose.2]⟩⟩

/-- R225: `n` has an encoding, so the rounded product is no further from the product than `n` is. -/
theorem abs_roundTrip_sub_lt : |f64Real (f64MulNat (f64DivNat n 1000) 1000) - n| < 1 := by
  obtain ⟨hround, hq⟩ := isFl64_roundTrip hn
  obtain ⟨c, hc, hvalue⟩ := exists_f64Real_eq_natCast (n := n) (by omega)
  have hclose := abs_decimal_sub_lt hn
  have hnear := hround.abs_sub_le hq hc
  rw [hvalue, abs_sub_comm (n : ℚ)] at hnear
  calc |f64Real (f64MulNat (f64DivNat n 1000) 1000) - n|
      ≤ |f64Real (f64MulNat (f64DivNat n 1000) 1000) - f64Real (f64DivNat n 1000) * 1000| +
        |f64Real (f64DivNat n 1000) * 1000 - n| := abs_sub_le _ _ _
    _ < 1 := by linarith

/-- R225: the product truncates to `n`, or to one less where it is below `n`. -/
theorem f64Trunc_roundTrip :
    f64Trunc (f64MulNat (f64DivNat n 1000) 1000) =
      if f64Real (f64MulNat (f64DivNat n 1000) 1000) < n then (n : ℤ) - 1 else n := by
  have hnonneg := f64Real_roundTrip_nonneg n
  have hclose := abs_lt.mp (abs_roundTrip_sub_lt hn)
  rw [← truncQ_f64Real, truncQ, if_pos hnonneg]
  generalize f64Real (f64MulNat (f64DivNat n 1000) 1000) = p at *
  split
  next hlt =>
    refine Int.floor_eq_iff.mpr ⟨?_, ?_⟩
    all_goals push_cast; linarith [hclose.1]
  next hge =>
    refine Int.floor_eq_iff.mpr ⟨?_, ?_⟩
    all_goals push_cast; linarith [hclose.2]

/-- R225: FXENC accepts the decimal of `n`. -/
theorem fxencFits_decimal : FxencFits (f64DivNat n 1000) := by
  obtain ⟨hround, hq⟩ := isFl64_roundTrip hn
  have htrunc := f64Trunc_roundTrip hn
  have hnonneg := f64Real_roundTrip_nonneg n
  have hbound : 0 ≤ f64Trunc (f64MulNat (f64DivNat n 1000) 1000) ∧
      f64Trunc (f64MulNat (f64DivNat n 1000) 1000) ≤ 2 ^ 32 - 1 := by
    rw [htrunc]
    split
    next hlt =>
      have hpos : 0 < n := by exact_mod_cast hnonneg.trans_lt hlt
      omega
    next => omega
  exact ⟨(isFl64_decimal n).finite (abs_div_thousand_le hn), f64IsInf_of_finite (hround.finite hq), hbound.1, hbound.2⟩

end

/-- FXDEC, then FXENC of its result: what the round trip leaves in `FX_INT`. -/
theorem fxdec_fxenc {s : State} (h : s.fxLen.toNat ≤ 4) :
    ∃ t u, exec .fxdec s = .next t ∧ exec .fxenc { t with fxIn := t.fxOut } = .next u ∧
      t.fxOut = f64DivNat t.fxInt.toNat 1000 ∧ u.err = 0#3 ∧
      (u.fxInt.toNat : ℤ) = if f64Real (f64MulNat t.fxOut 1000) < t.fxInt.toNat then (t.fxInt.toNat : ℤ) - 1
        else t.fxInt.toNat := by
  obtain ⟨n, -, hs⟩ := decodeFixed_of_le h
  obtain ⟨m, hm, hu⟩ := encodeFixed_of_fits (s := { s with
    fxIn := f64DivNat n.toNat 1000
    fxInt := n
    fxOut := f64DivNat n.toNat 1000
    err := 0#3 }) (fxencFits_decimal n.isLt)
  refine ⟨_, _, (exec_fxdec s).trans (congrArg _ hs), (exec_fxenc _).trans (congrArg _ hu), rfl, rfl, ?_⟩
  exact hm.trans (f64Trunc_roundTrip n.isLt)

/-- Settles O45, with the model's product for `p`. -/
theorem fixedPointRoundTripLosesAtMostOne : Obligations.FixedPointRoundTripLosesAtMostOne := by
  intro s hlen
  obtain ⟨t, u, ht, hu, -, herr, hint⟩ := fxdec_fxenc hlen
  refine ⟨t, u, ht, hu, herr, ?_, f64MulNat t.fxOut 1000, isFl64_f64MulNat t.fxOut 1000, ?_⟩
  all_goals split at hint
  · exact .inr (by omega)
  · exact .inl (BitVec.eq_of_toNat_eq (by omega))
  next hlt => exact iff_of_true (by omega) hlt
  next hge => exact iff_of_false (by omega) hge

/-- Settles O46: a multiple of 1000 has an exact decimal and an exact product, and any `p` has the value of the model's
product. -/
theorem fixedPointRoundTripExactCases : Obligations.FixedPointRoundTripExactCases := by
  intro s hlen
  obtain ⟨t, u, ht, hu, hout, herr, hint⟩ := fxdec_fxenc hlen
  obtain ⟨hround, hq⟩ := isFl64_roundTrip t.fxInt.isLt
  rw [← hout] at hround hq
  have hexact (hge : (t.fxInt.toNat : ℚ) ≤ f64Real (f64MulNat t.fxOut 1000)) : u.fxInt = t.fxInt := by
    rw [if_neg (not_lt.mpr hge)] at hint
    exact BitVec.eq_of_toNat_eq (by omega)
  refine ⟨t, u, ht, hu, fun m hm => ?_, fun p hp hge => ⟨herr, hexact ?_⟩⟩
  · have hbound := t.fxInt.isLt
    have hcast : (t.fxInt.toNat : ℚ) = m * 1000 := by rw [hm, Nat.cast_mul, mul_comm, Nat.cast_ofNat]
    have hquotient := isFl64_decimal t.fxInt.toNat
    rw [← hout, hcast, mul_div_cancel_right₀ _ (by norm_num)] at hquotient
    have hdecimal := hquotient.real_eq_natCast (by omega)
    rw [hdecimal, ← hcast] at hround
    exact ⟨hdecimal, herr, hexact (hround.real_eq_natCast (by omega)).ge⟩
  · rwa [hround.real_unique hp hq]

end Sys2Proof.Machine

/-! SUPPORT. `VALID` along a run without FVER (spec/70_reset_and_hazards.md R332), and what an RD reads at each register
of the map and after a WR (spec/43_host_access.md R260, R262, R263). -/

namespace Sys2Proof.Machine

/-! ### `VALID` along a run -/

theorem step_pending {s t : State} (h : step s = .next t) : t.pending = s.pending.tail :=
  (aStepTakesOneEventAndAnswersOnlyReads s t h).1

/-- R40: only FVER sets `VALID`. -/
theorem step_keeps_not_valid {s t : State} (hstep : step s = .next t) (hs : s.valid = false)
    (hver : ∀ w rest, s.pending = .access w :: rest → decodeBus w ≠ .fver) : t.valid = false := by
  rw [← Bool.not_eq_true, validHoldsExactlyWhileTheVerificationStands.2 s t hstep, hs]
  rintro (⟨-, hold⟩ | ⟨w, rest, hw, ⟨hfver, -⟩ | ⟨hold, -⟩⟩)
  · cases hold
  · exact hver w rest hw hfver
  · cases hold

/-- R170, R263: a FENC that builds a frame and a WR to `FRAME` or `RXLEN` clear `VALID`. -/
theorem step_clears_valid {s t : State} {w : BusWord} {rest : List HostEvent} (hs : s.pending = .access w :: rest)
    (hw : (∃ a d, decodeBus w = .wr a d ∧ a.toNat ≤ 0x1A) ∨ (decodeBus w = .fenc ∧ s.plen.toNat ≤ 22))
    (hstep : step s = .next t) : t.valid = false := by
  rw [← Bool.not_eq_true, validHoldsExactlyWhileTheVerificationStands.2 s t hstep]
  rcases hw with ⟨a, d, hwr, ha⟩ | ⟨hfenc, hplen⟩
  · simp [hs, hwr, ha]
  · simp [hs, hfenc, hplen]

theorem RunsTo.keeps_not_valid {s t : State} {evs rest : List HostEvent} (hrun : RunsTo evs.length s t)
    (hpending : s.pending = evs ++ rest) (hs : s.valid = false)
    (hver : ∀ e ∈ evs, ∀ w, e = .access w → decodeBus w ≠ .fver) : t.valid = false := by
  induction evs generalizing s with
  | nil =>
    obtain rfl : s = t := by injection hrun
    exact hs
  | cons e evs ih =>
    obtain ⟨u, hstep, hrest⟩ := runsTo_succ_iff.mp hrun
    have hu : u.pending = evs ++ rest := by rw [step_pending hstep, hpending]; rfl
    refine ih hrest hu (step_keeps_not_valid hstep hs fun w rest' hw => ?_) fun x hx =>
      hver x (List.mem_cons_of_mem _ hx)
    obtain ⟨rfl, -⟩ : e = .access w ∧ evs ++ rest = rest' := by simpa [hpending] using hw
    exact hver _ List.mem_cons_self w rfl

theorem exec_of_extractsField {i : Instr} (hi : extractsField i) (s : State) :
    ∃ field, exec i s = .next (extractField field s) := by
  cases i with
  | tfieldCurrent | tfieldVoltage | tfieldMaxCurrent | tfieldMaxVoltage | tfieldVset => exact ⟨_, rfl⟩
  | _ => exact absurd hi (by simp)

/-- Settles O15: the first step clears `VALID`, no later one sets it, and both views of the buffer ask for it. -/
theorem accessorsStayDeadUntilTheNextFver : Obligations.AccessorsStayDeadUntilTheNextFver := by
  intro s t w evs rest hclear hver hpending hrun
  obtain ⟨u, hstep, hrest⟩ := runsTo_succ_iff.mp hrun
  have hu : u.pending = evs ++ rest := by rw [step_pending hstep, hpending]; rfl
  have ht : t.valid = false := RunsTo.keeps_not_valid hrest hu (step_clears_valid hpending hclear hstep) hver
  refine ⟨(busRead_reply t).trans (replyByte_of_not_valid ht), fun i hi => ?_⟩
  obtain ⟨field, hexec⟩ := exec_of_extractsField hi t
  rw [hexec, extractField_of_not_valid field ht]
  rfl

/-! ### The registers of the map -/

section
variable (s : State) {a : Byte}

theorem busRead_frame (h : a.toNat ≤ 0x19) : busRead s a = frameByte s.frame a.toNat := if_pos h

theorem busRead_fxBytes (h : 0x24 ≤ a.toNat ∧ a.toNat ≤ 0x27) : busRead s a = fxByte s.fxBytes (a.toNat - 0x24) := by
  unfold busRead
  repeat rw [if_neg (by omega)]
  rw [if_pos h]

theorem busRead_fxInt (h : 0x28 ≤ a.toNat ∧ a.toNat ≤ 0x2B) :
    busRead s a = s.fxInt.extractLsb' (8 * (a.toNat - 0x28)) 8 := by
  unfold busRead
  repeat rw [if_neg (by omega)]
  rw [if_pos h]

theorem busRead_fxIn (h : 0x30 ≤ a.toNat ∧ a.toNat ≤ 0x37) : busRead s a = byteAt s.fxIn (a.toNat - 0x30) := by
  unfold busRead
  repeat rw [if_neg (by omega)]
  rw [if_pos h]

theorem busRead_fxOut (h : 0x38 ≤ a.toNat ∧ a.toNat ≤ 0x3F) : busRead s a = byteAt s.fxOut (a.toNat - 0x38) := by
  unfold busRead
  repeat rw [if_neg (by omega)]
  rw [if_pos h]

end

/-- Settles O22: `busRead` register by register. -/
theorem rdReturnsTheAddressedByte : Obligations.RdReturnsTheAddressedByte := by
  refine fun s a => ⟨_, exec_rd s a, fun i hi => ?_, ?_, ?_, ?_, ?_, ?_, ?_, ?_, ?_, ?_, fun i hi => ?_,
    fun k hk ha j hj => ?_, fun k hk ha j hj => ?_, fun k hk ha j hj => ?_, busRead_of_regReserved s⟩
  · rw [busRead_frame s (by omega), hi]
    exact frameByte_lt _ i.isLt
  -- the nine registers of one byte, `RXLEN` to `FX_LEN`
  iterate 9
    rintro rfl
    rfl
  · rw [busRead_fxBytes s (by omega), hi, Nat.add_sub_cancel_left]
    exact dif_pos i.isLt
  · rw [busRead_fxInt s (by omega), ha, Nat.add_sub_cancel_left]
    simp [hj]
  · rw [busRead_fxIn s (by omega), ha, Nat.add_sub_cancel_left]
    simp [hj]
  · rw [busRead_fxOut s (by omega), ha, Nat.add_sub_cancel_left]
    simp [hj]

/-! ### Reading after a store -/

theorem busRead_busStore_self (s : State) {a : Byte} (d : Byte) (ha : regWritable a) :
    busRead (busStore s a d) a = d := by
  unfold busStore
  dsimp only
  split
  next hframe => rw [busRead_frame _ hframe, frameByte_set_self _ (by omega)]
  iterate 5
    split
    next hbyte => simp [busRead, hbyte]
  split
  next hfxBytes => rw [busRead_fxBytes _ hfxBytes, fxByte_set_self _ (by omega)]
  split
  next hfxIn => rw [busRead_fxIn _ hfxIn, byteAt_setByte _ _ _ (by omega), if_pos rfl]
  next => omega

/-- R262: a store leaves the other addresses alone, but for `STATUS` and `REPLY`, which show `VALID`. -/
theorem busRead_busStore_ne (s : State) {a b : Byte} (d : Byte) (hb : b ≠ a) (hstatus : b ≠ 0x1F#8)
    (hreply : b ≠ 0x21#8) : busRead (busStore s a d) b = busRead s b := by
  rw [← BitVec.toNat_inj.ne] at hb hstatus hreply
  rw [BitVec.toNat_ofNat] at hstatus hreply
  unfold busStore
  dsimp only
  split
  next hframe => simp [busRead, hstatus, hreply, frameByte_set_ne _ hb.symm]
  iterate 5
    split
    next hbyte =>
      rw [hbyte] at hb
      simp [busRead, hstatus, hreply, hb]
  split
  next hfxBytes =>
    by_cases h : 0x24 ≤ b.toNat ∧ b.toNat ≤ 0x27
    · rw [busRead_fxBytes _ h, busRead_fxBytes _ h, fxByte_set_ne _ (by omega)]
    · simp [busRead, hstatus, hreply, h]
  split
  next hfxIn =>
    by_cases h : 0x30 ≤ b.toNat ∧ b.toNat ≤ 0x37
    · rw [busRead_fxIn _ h, busRead_fxIn _ h, byteAt_setByte _ _ _ (by omega), if_neg (by omega)]
    · simp [busRead, hstatus, hreply, h]
  next => rfl

/-- Settles O24: no writable address is `CTRL`, and a WR there is a store. -/
theorem wrStoresAtTheAddressedByteOnly : Obligations.WrStoresAtTheAddressedByteOnly := by
  refine fun s a d => ⟨fun ha => ?_, ?_, exec_wr_of_not_regWritable s d⟩
  · have hctrl : a ≠ 0x20#8 := by bv_omega
    refine ⟨_, execWr_of_ne_ctrl hctrl d s, busRead_busStore_self s d ha, fun b => busRead_busStore_ne s d,
      busStore_err s a d, busStore_errseen s a d, fun hlow => ?_, fun hhigh => ?_, busStore_pending s a d,
      busStore_returned s a d⟩
    · rw [busStore_valid, if_pos hlow]
    · rw [busStore_valid, if_neg (not_le.mpr hhigh)]
  · rintro rfl
    exact exec_wr_ctrl d s

end Sys2Proof.Machine

/-! SUPPORT. The error record (spec/60_exceptions.md): a run never stops and never loses `ERRSEEN` without a reset
(R282, R287, R297), every operation overwrites `ERR` (R281), and the first failing check decides its code (R285). -/

namespace Sys2Proof.Machine

/-! ### `ERRSEEN` along a run -/

/-- R287: the block never hangs. -/
theorem step_next (s : State) : ∃ t, step s = .next t := by
  rcases hs : s.pending with _ | ⟨w | w, rest⟩
  · exact ⟨s, step_wait hs⟩
  · obtain ⟨t, ht, -⟩ := step_access_port hs
    exact ⟨t, ht⟩
  · exact ⟨_, step_reset hs⟩

theorem runsTo_next (n : ℕ) (s : State) : ∃ t, RunsTo n s t := by
  induction n generalizing s with
  | zero => exact ⟨s, .zero s⟩
  | succ n ih =>
    obtain ⟨u, hstep⟩ := step_next s
    obtain ⟨t, hrun⟩ := ih u
    exact ⟨t, runsTo_succ_iff.mpr ⟨u, hstep, hrun⟩⟩

/-- None of the next `n` events is a reset. -/
abbrev State.noResetWithin (s : State) (n : ℕ) : Prop := ∀ e ∈ s.pending.take n, isResetEvent e = false

theorem State.noResetWithin.head {s : State} {n : ℕ} (h : s.noResetWithin (n + 1)) :
    ∀ e, s.pending.head? = some e → isResetEvent e = false := fun e he =>
  h e (List.mem_of_head? (by rw [List.head?_take, if_neg n.succ_ne_zero, he]))

theorem State.noResetWithin.after_step {s t : State} {n : ℕ} (h : s.noResetWithin (n + 1)) (hstep : step s = .next t) :
    t.noResetWithin n := by
  intro e he
  have htail : t.pending.take n = (s.pending.take (n + 1)).tail := by
    rw [step_pending hstep, List.tail_take_eq_take_tail, Nat.add_sub_cancel]
  exact h e (List.mem_of_mem_tail (htail ▸ he))

theorem RunsTo.errseen_mono {n : ℕ} {s t : State} (hrun : RunsTo n s t) (hno : s.noResetWithin n)
    (hs : s.errseen = true) : t.errseen = true := by
  induction n generalizing s with
  | zero =>
    obtain rfl : s = t := by injection hrun
    exact hs
  | succ n ih =>
    obtain ⟨u, hstep, hrest⟩ := runsTo_succ_iff.mp hrun
    exact ih hrest (hno.after_step hstep) (errseenIsStickyUntilReset.2.1 s u hstep hs hno.head)

/-- Settles O10, by induction on `k`: the rest of the run would have kept an `ERRSEEN` that was set after `k` steps. -/
theorem theBlockNeverHangsAndErrseenIsTheRunsRecord : Obligations.TheBlockNeverHangsAndErrseenIsTheRunsRecord := by
  refine ⟨runsTo_next, fun n s t hrun ht hno k hk u hu => ?_⟩
  induction k generalizing n s with
  | zero =>
    obtain rfl : s = u := by injection hu
    exact Bool.eq_false_iff.mpr fun hs => Bool.eq_false_iff.mp ht (RunsTo.errseen_mono hrun hno hs)
  | succ k ih =>
    obtain ⟨n, rfl⟩ := Nat.exists_eq_add_one_of_ne_zero (by omega : n ≠ 0)
    obtain ⟨v, hstep, hrest⟩ := runsTo_succ_iff.mp hrun
    obtain ⟨v', hstep', hu'⟩ := runsTo_succ_iff.mp hu
    obtain rfl : v = v' := by simpa [hstep] using hstep'
    exact ih n v hrest (State.noResetWithin.after_step hno hstep) (by omega) hu'

/-! ### The writers of `ERR` -/

/-- R281: each operation ends by reporting an error or by succeeding, and both overwrite `ERR`; no check before that
reads it. -/
theorem exec_err_irrelevant {i : Instr} (hi : isOperation i = true) (s : State) (e : BitVec 3) :
    exec i { s with err := e } = exec i s := by
  cases i with
  | rd | wr => cases hi
  | csum | fenc | fver | fxenc | fxdec
  | tfieldCurrent | tfieldVoltage | tfieldMaxCurrent | tfieldMaxVoltage | tfieldVset
  | tfieldReserved5 | tfieldReserved67 | reservedOp6 | reservedOp7
  | wireRemote | wireOutput | wireSetMaxV | wireSetV | wireSetMaxI | wireRead => rfl

theorem exec_operation_err_ne_seven {i : Instr} {s t : State} (hi : isOperation i = true) (h : exec i s = .next t) :
    t.err ≠ 7#3 := by
  rcases (Effect.of_exec (wellFormed_of_isOperation hi) h).error_record with
    ⟨e, -, herr, -⟩ | ⟨herr, -⟩ | ⟨hnot, -, -⟩
  · exact herr ▸ e.code_ne_seven
  · exact herr ▸ by decide
  · rw [hi] at hnot
    cases hnot

theorem exec_err_of_not_operation {i : Instr} {s t : State} (hi : isOperation i = false) (hwf : i.wellFormed = true)
    (h : exec i s = .next t) : t.err = s.err := by
  obtain ⟨-, -, -, -, -, -, -, -, -, -, -, -, hwriter, -⟩ := eachRegisterChangesOnlyByItsWriters i s t hwf h
  by_contra hne
  exact Bool.eq_false_iff.mp hi (hwriter (.inl hne))

/-- Settles O12, from what an operation does to `ERR` and which instructions can change it. -/
theorem everyOperationAndNothingElseWritesErr : Obligations.EveryOperationAndNothingElseWritesErr :=
  ⟨fun _ s e hi => exec_err_irrelevant hi s e, fun _ _ _ => exec_operation_err_ne_seven,
    fun _ _ _ => exec_err_of_not_operation, rfl⟩

/-! ### The check that decides -/

theorem fencWith_err (cmd : Byte) (s : State) : (fencWith cmd s).err = if 22 < s.plen.toNat then 1#3 else 0#3 := by
  split
  next hplen => rw [fencWith_of_lt hplen]; rfl
  next hplen => rw [fencWith_of_le (not_lt.mp hplen)]

theorem verifyFrame_err (s : State) :
    (verifyFrame s).err = if 26 < s.rxlen.toNat then 4#3 else if s.rxlen.toNat < 26 then 2#3
      else if frameByte s.frame 25 ≠ checksum s.frame then 2#3 else 0#3 := by
  split
  next hlong => rw [verifyFrame_of_long hlong]
  split
  next hshort => rw [verifyFrame_of_short hshort]
  split
  next hsum => rw [verifyFrame_of_mismatch (by omega) hsum]
  next hsum => rw [verifyFrame_of_match (by omega) (not_not.mp hsum)]

/-- R220: FXENC checks the parts of `FxencFits` in turn. -/
theorem encodeFixed_err (s : State) :
    (encodeFixed s).err = if f64IsNaN s.fxIn = true ∨ f64IsInf s.fxIn = true then 3#3
      else if f64IsInf (f64MulNat s.fxIn 1000) = true then 3#3
      else if f64Trunc (f64MulNat s.fxIn 1000) < 0 ∨ 2 ^ 32 - 1 < f64Trunc (f64MulNat s.fxIn 1000) then 3#3
      else 0#3 := by
  have hrange (h : ¬ FxencFits s.fxIn) : (encodeFixed s).err = 3#3 := by rw [encodeFixed_of_not_fits h]; rfl
  split
  next hbad => exact hrange fun hfits => (not_f64Finite_iff _).mpr hbad hfits.finite
  next hinput =>
  split
  next hinf => exact hrange fun hfits => Bool.eq_false_iff.mp hfits.product hinf
  next hproduct =>
  split
  next hout =>
    refine hrange fun hfits => ?_
    have := hfits.nonneg
    have := hfits.le_max
    omega
  next hin =>
    obtain ⟨n, -, hs⟩ := encodeFixed_of_fits (s := s)
      ⟨not_not.mp (mt (not_f64Finite_iff _).mp hinput), Bool.eq_false_iff.mpr hproduct, by omega, by omega⟩
    rw [hs]

theorem decodeFixed_err (s : State) : (decodeFixed s).err = if 4 < s.fxLen.toNat then 4#3 else 0#3 := by
  split
  next hlen => rw [decodeFixed_of_long hlen]; rfl
  next hlen =>
    obtain ⟨n, -, hs⟩ := decodeFixed_of_le (not_lt.mp hlen)
    rw [hs]

theorem extractField_err (field : Config.TelemetryField) (s : State) :
    (extractField field s).err = if s.valid = false then 5#3 else 0#3 := by
  split
  next hvalid => rw [extractField_of_not_valid field hvalid]; rfl
  next hvalid =>
    obtain ⟨bs, n, -, -, hs⟩ := extractField_of_valid field (Bool.not_eq_false _ ▸ hvalid)
    rw [hs]

theorem extractsField_decodeTfield {f : BitVec 3} (h : f.toNat ≤ 4) : extractsField (decodeTfield f) := by
  revert f
  decide

/-- R113, R223: the field select is checked before `VALID`. -/
theorem exec_tfield_err {c : Byte} (hop : ctrlOp c = 5#3) (s : State) :
    ∃ t, exec (decodeCtrl c) s = .next t ∧
      t.err = if 4 < (ctrlFsel c).toNat then 6#3 else if s.valid = false then 5#3 else 0#3 := by
  split
  next hfsel => exact ⟨_, exec_decodeCtrl_of_ctrlReserved (.inr (.inr ⟨hop, hfsel⟩)) s, rfl⟩
  next hfsel =>
    rw [decodeCtrl_of_ctrlOp_five hop]
    obtain ⟨field, hexec⟩ := exec_of_extractsField (extractsField_decodeTfield (not_lt.mp hfsel)) s
    exact ⟨_, hexec, extractField_err field s⟩

/-- Settles O13, operation by operation. -/
theorem firstFailingCheckDecidesTheError : Obligations.FirstFailingCheckDecidesTheError := by
  refine fun s => ⟨⟨_, exec_csum s, rfl⟩, ⟨_, exec_fenc s, fencWith_err s.cmd s⟩, ⟨_, exec_fver s, verifyFrame_err s⟩,
    ⟨_, exec_fxenc s, encodeFixed_err s⟩, ⟨_, exec_fxdec s, decodeFixed_err s⟩, fun c hop => exec_tfield_err hop s,
    fun c hop => ⟨_, exec_decodeCtrl_of_ctrlReserved ?_ s, rfl⟩⟩
  unfold ctrlReserved ctrlOp
  bv_omega

end Sys2Proof.Machine

/-! SUPPORT. Reset (spec/70_reset_and_hazards.md): it wins over the access made with it (R320, R321), and the buffer it
leaves is checksum-valid (R323). -/

namespace Sys2Proof.Machine

theorem busRead_of_sameRegisters {s t : State} (h : s.sameRegisters t) (a : Byte) : busRead t a = busRead s a := by
  rw [h]
  rfl

/-- Settles O20: the step is the reset step, whose registers are those of reset and whose answer depends on the access. -/
theorem resetWinsFromAnyState : Obligations.ResetWinsFromAnyState := by
  intro s w rest hs
  have hregs : State.reset.sameRegisters (resetStep w (s.setPending rest)) := resetStep_sameRegisters w _
  refine ⟨_, step_reset hs, hregs, fun a => ?_, resetStep_pending w _, fun hw => ?_, fun x hw hwrite => ?_,
    fun x hw hread => ?_⟩
  · rw [busRead_of_sameRegisters hregs, busRead_reset]
  · exact resetStep_returned_of_no_read (by simp [hw]) _
  · refine resetStep_returned_of_no_read (fun y hy => ?_) _
    obtain rfl : x = y := Option.some.inj (hw.symm.trans hy)
    exact hwrite
  · exact hw ▸ resetStep_read_returned hread _

theorem checksum_reset : checksum State.reset.frame = 0#8 := by decide

theorem frameByte_reset_eq_checksum : frameByte State.reset.frame 25 = checksum State.reset.frame := by
  rw [frameByte_reset, checksum_reset]

/-- Settles O21: the WR leaves the zero buffer alone, whose last byte is its checksum, so FVER accepts it. -/
theorem resetBufferVerifies : Obligations.ResetBufferVerifies := by
  refine ⟨beq_iff_eq.mpr frameByte_reset_eq_checksum, fun s rest hregs hs => ?_⟩
  obtain ⟨t, hrun, hframe, hrxlen, hpending⟩ :=
    (RunsTo.zero s).wrRxlen (decodeBus_encode (i := .wr 0x1A#8 26#8) rfl rfl) hs
  replace hframe : t.frame = State.reset.frame := by rw [hframe, hregs]
  have hsum : frameByte t.frame 25 = checksum t.frame := hframe ▸ frameByte_reset_eq_checksum
  refine ⟨_, hrun.access (decodeBus_encode rfl rfl) hpending (exec_fver _), ?_⟩
  rw [verifyFrame_of_match (s := t.setPending rest) (congrArg BitVec.toNat hrxlen) hsum]
  refine ⟨rfl, rfl, ?_, ?_⟩
  · exact (congrArg checksum hframe).trans checksum_reset
  · have hfirst : frameByte t.frame 0 = 0#8 := by rw [hframe, frameByte_reset]
    exact hfirst.trans_ne (by decide)

end Sys2Proof.Machine
